-- ==== Sys2Proof/Word.lean ====
section
/-! DEFINITION. The words of the block, and its two kinds of address (spec/00_scope.md rule R7). -/

namespace Sys2Proof

/-- The content of a register and the value a read primitive delivers: `REG_W` = 8 bits (R7, R55). -/
abbrev Byte := BitVec 8

/-- A bus device address (R50): the block only compares it, and its width is the parameter
`DADDR_W`. -/
abbrev DevAddr := Nat

/-- A register address inside a device (R50): the block only compares it, and its width is the
parameter `RADDR_W`. -/
abbrev RegAddr := Nat

/-- What `arg[15:0]` can carry of a rate in hertz (R81); the parameter `RATE_W` says how many of its
bits are the rate. -/
abbrev RateHz := BitVec 16

/-- A raw code of the two-bit fields `RATE` and `BW` (R28, R29). -/
abbrev Code := BitVec 2

/-- A command word `cmd[23:0]` (R80). -/
abbrev Cmd := BitVec 24

/-- The `result` part of a response (R85). -/
abbrev Result := BitVec 32

end Sys2Proof
end

