-- ==== Sys2Proof/Syntax.lean ====
section
/-! DEFINITION. The fifteen operations of the block, one constructor per row of
spec/opcode_table.json (spec/30_encoding.md rule R82). An operand is of the type the operation reads
it as (R81), so every term is a well-formed operation. -/

namespace Sys2Proof

inductive Instr where
  /-- `INIT` (R100). -/
  | init
  /-- `TESTCONN` (R102). -/
  | testconn
  /-- `SETRATE rateHz` (R113). -/
  | setrate (rateHz : RateHz)
  /-- `GETRATE` (R114). -/
  | getrate
  /-- `SETBWM mode` (R121). -/
  | setbwm (mode : Byte)
  /-- `GETBWM` (R122). -/
  | getbwm
  /-- `GETBWC` (R128). -/
  | getbwc
  /-- `SETPWR on` (R135). -/
  | setpwr (on : Bool)
  /-- `GETPWR` (R136). -/
  | getpwr
  /-- `SETXEN enabled` (R137). -/
  | setxen (enabled : Bool)
  /-- `GETXEN` (R138). -/
  | getxen
  /-- `SETYEN enabled` (R139). -/
  | setyen (enabled : Bool)
  /-- `GETYEN` (R140). -/
  | getyen
  /-- `SETZEN enabled` (R141). -/
  | setzen (enabled : Bool)
  /-- `GETZEN` (R142). -/
  | getzen
  deriving DecidableEq, Repr

end Sys2Proof
end

