-- ==== Sys2Proof/Decode.lean ====
section
/-! DEFINITION. The decoder of command words and, after it, the encoder (spec/30_encoding.md rules
R80 to R84). -/

namespace Sys2Proof

/-- What a command word is: an operation, or a word of a reserved opcode (R83, R84). -/
inductive Decoded where
  | op (i : Instr)
  | reserved (opcode : Byte)
  deriving DecidableEq, Repr

/-- `op = cmd[23:16]` (R80). -/
def opOf (w : Cmd) : Byte := w.extractLsb' 16 8

/-- `arg = cmd[15:0]` (R80). -/
def argOf (w : Cmd) : BitVec 16 := w.extractLsb' 0 16

/-- Operand of type `rate`: `rateHz = arg[15:0]` (R81). -/
def rateOperand (arg : BitVec 16) : RateHz := arg

/-- Operand of type `mode`: `mode = arg[7:0]`, `arg[15:8]` ignored (R81). -/
def modeOperand (arg : BitVec 16) : Byte := arg.extractLsb' 0 8

/-- Operand of type `bool`: true for every non-zero `arg` (R81). -/
def flagOperand (arg : BitVec 16) : Bool := decide (arg ≠ 0)

/-- The decoder, total on the 2^24 command words (R82 to R84). -/
def decode (w : Cmd) : Decoded :=
  match (opOf w).toNat with
  | 0x01 => .op .init
  | 0x02 => .op .testconn
  | 0x03 => .op (.setrate (rateOperand (argOf w)))
  | 0x04 => .op .getrate
  | 0x05 => .op (.setbwm (modeOperand (argOf w)))
  | 0x06 => .op .getbwm
  | 0x07 => .op .getbwc
  | 0x08 => .op (.setpwr (flagOperand (argOf w)))
  | 0x09 => .op .getpwr
  | 0x0A => .op (.setxen (flagOperand (argOf w)))
  | 0x0B => .op .getxen
  | 0x0C => .op (.setyen (flagOperand (argOf w)))
  | 0x0D => .op .getyen
  | 0x0E => .op (.setzen (flagOperand (argOf w)))
  | 0x0F => .op .getzen
  | _ => .reserved (opOf w)

/-- The command word `{op, arg}` (R80). -/
def commandWord (op : Byte) (arg : BitVec 16) : Cmd := op ++ arg

/-- What an assembler emits for a boolean operand: 1 for true, 0 for false (R81). -/
def flagArg (b : Bool) : BitVec 16 := if b then 1 else 0

/-- The canonical command word of an operation (R81, R82): ignored operand bits are 0. -/
def encode : Instr → Cmd
  | .init => commandWord 0x01 0
  | .testconn => commandWord 0x02 0
  | .setrate rateHz => commandWord 0x03 rateHz
  | .getrate => commandWord 0x04 0
  | .setbwm mode => commandWord 0x05 (mode.setWidth 16)
  | .getbwm => commandWord 0x06 0
  | .getbwc => commandWord 0x07 0
  | .setpwr on => commandWord 0x08 (flagArg on)
  | .getpwr => commandWord 0x09 0
  | .setxen enabled => commandWord 0x0A (flagArg enabled)
  | .getxen => commandWord 0x0B 0
  | .setyen enabled => commandWord 0x0C (flagArg enabled)
  | .getyen => commandWord 0x0D 0
  | .setzen enabled => commandWord 0x0E (flagArg enabled)
  | .getzen => commandWord 0x0F 0

/-- The operation a decoded word is, if it is one. -/
def operationOf : Decoded → Option Instr
  | .op i => some i
  | .reserved _ => none

/-- The command word whose low `nbits` bits are `w` and whose bits above are 0. -/
def tableWord (nbits w : Nat) : Cmd := BitVec.ofNat 24 (w % 2 ^ nbits)

/-- The operation the decoder reads from that word. A command is one 24-bit word (R87), so a longer
one is none. -/
def decodeTableWord (nbits w : Nat) : Option Instr :=
  if nbits ≤ 24 then operationOf (decode (tableWord nbits w)) else none

end Sys2Proof
end

