-- ==== Sys2Proof/Config.lean ====
section
/-! DEFINITION. The implementation parameters of the block (spec/00_scope.md rule R7) and the free
values, which the spec leaves open and which therefore have no body. -/

namespace Sys2Proof.Config

/-- The parameters of R7 that the source does not fix. The constraints on them (R8) are
`Params.wf`; the spec's defaults are `standardParams`. -/
structure Params where
  /-- `RADDR_W`: the width of a register address (D3). -/
  raddrW : Nat
  /-- `DADDR_W`: the width of a bus device address (D4). -/
  daddrW : Nat
  /-- `RATE_W`: the width of the rate operand and result (D18). -/
  rateW : Nat
  /-- `A_IDENT`: register address of `IDENT` (D3). -/
  aIdent : RegAddr
  /-- `A_CTRL1`: register address of `CTRL1` (D3). -/
  aCtrl1 : RegAddr
  /-- `DEFAULT_ADDRESS`: the "vendor default address" (D4). -/
  defaultAddress : DevAddr
  /-- `SELF_ADDR`: the device address at which this CSR file answers (D32). -/
  selfAddr : DevAddr
  /-- `RATE_HI`, `RATE_LO`: the bits of field `RATE` (D5). -/
  rateHi : Nat
  rateLo : Nat
  /-- `BW_HI`, `BW_LO`: the bits of field `BW` (D5). -/
  bwHi : Nat
  bwLo : Nat
  /-- `PWR_BIT`, `ZEN_BIT`, `YEN_BIT`, `XEN_BIT`: the one-bit fields (D5). -/
  pwrBit : Nat
  zenBit : Nat
  yenBit : Nat
  xenBit : Nat
  /-- `RC_100`, `RC_200`, `RC_400`, `RC_800`: the raw codes of the four rates (D6). -/
  rc100 : Code
  rc200 : Code
  rc400 : Code
  rc800 : Code
  /-- `BM_LOW`, `BM_MED_LOW`, `BM_MED_HIGH`, `BM_HIGH`: the raw codes of the four modes (D7). -/
  bmLow : Code
  bmMedLow : Code
  bmMedHigh : Code
  bmHigh : Code
  /-- `CTRL1_RESET`: the content of `CTRL1` after reset (D21). -/
  ctrl1Reset : Byte
  /-- `EXCLUSIVE_BUS`: the premise that no other master writes `CTRL1` (D24, R176). -/
  exclusiveBus : Bool
  /-- `IDEAL_TRANSPORT`'s second half: the premise that `transport_fails()` is false at every
  primitive (R62). Its first half, `DEVADDR = SELF_ADDR`, is a fact about the state. -/
  idealTransport : Bool
  deriving DecidableEq, Repr

/-- The free inputs of one transport primitive. -/
structure BusOutcome where
  /-- `transport_fails()` (R62). -/
  fails : Bool
  /-- The byte a failed read delivers, `draw(8)` (R60). -/
  junk : Byte
  /-- Whether a failed write left the new value, `choose(old, new)` (R61). -/
  lands : Bool
  deriving DecidableEq, Repr, Inhabited

/-- Free value: the inputs of the `n`-th primitive that no given outcome covers (R60 to R62). -/
opaque busOutcome : Nat → BusOutcome

/-- Free value: the other master's move at the `n`-th interleaving point that no given move covers;
`some b` replaces `CTRL1` by `b` (R176). -/
opaque otherMaster : Nat → Option Byte

/-- Free value: the content of `CTRL1` after reset, one draw (R40, D21). -/
opaque ctrl1Reset : Byte

end Sys2Proof.Config
end

