-- ==== Sys2Proof/Machine/Constants.lean ====
section
/-! DEFINITION. The constants of the block: those the source fixes (`IDENT_VALUE`, `CUTOFF_TABLE`),
the spec's defaults of the parameters (spec/00_scope.md rule R7), and where each field of `CTRL1`
stands (spec/10_state.md rule R27). -/

namespace Sys2Proof

/-- `IDENT_VALUE`: 0xD3 (R7, R26). -/
def identValue : Byte := 0xD3#8

/-- The spec's defaults of the parameters (R7), with neither premise assumed. PRESUMED: the spec
marks the register and bus addresses, the layout and the codes "from general knowledge". -/
def standardParams : Config.Params where
  raddrW := 8
  daddrW := 7
  rateW := 16
  aIdent := 0x0F
  aCtrl1 := 0x20
  defaultAddress := 0x69
  selfAddr := 0x69
  rateHi := 7
  rateLo := 6
  bwHi := 5
  bwLo := 4
  pwrBit := 3
  zenBit := 2
  yenBit := 1
  xenBit := 0
  rc100 := 0#2
  rc200 := 1#2
  rc400 := 2#2
  rc800 := 3#2
  bmLow := 0#2
  bmMedLow := 1#2
  bmMedHigh := 2#2
  bmHigh := 3#2
  ctrl1Reset := Config.ctrl1Reset
  exclusiveBus := false
  idealTransport := false

/-- The six fields of `CTRL1` (R27). -/
inductive Field where
  | rate | bw | pwr | zen | yen | xen
  deriving DecidableEq, Repr

/-- The number of bits of a field (R27). -/
def fieldLen : Field → Nat
  | .rate => 2
  | .bw => 2
  | .pwr => 1
  | .zen => 1
  | .yen => 1
  | .xen => 1

/-- The most significant bit of a field (R27, D8). -/
def fieldHi (p : Config.Params) : Field → Nat
  | .rate => p.rateHi
  | .bw => p.bwHi
  | .pwr => p.pwrBit
  | .zen => p.zenBit
  | .yen => p.yenBit
  | .xen => p.xenBit

/-- Whether a bit range is the range of one of the six fields (R54, U18). -/
def isFieldRange (p : Config.Params) (hi len : Nat) : Bool :=
  [Field.rate, .bw, .pwr, .zen, .yen, .xen].any fun f =>
    decide (fieldHi p f = hi) && decide (fieldLen f = len)

/-- The rows of the cutoff table (R127). -/
inductive Row where
  | hz100 | hz200 | hz400 | hz800
  deriving DecidableEq, Repr

/-- The columns of the cutoff table (R125, R127). -/
inductive Column where
  | low | medLow | medHigh | high
  deriving DecidableEq, Repr

/-- The eight cutoff frequencies: 12.5, 20, 25, 30, 35, 50, 70, 110 Hz (R126). -/
inductive Cutoff where
  | hz12p5 | hz20 | hz25 | hz30 | hz35 | hz50 | hz70 | hz110
  deriving DecidableEq, Repr

/-- A cutoff as a count of half-hertz (R129). -/
def halfHertz : Cutoff → Nat
  | .hz12p5 => 25
  | .hz20 => 40
  | .hz25 => 50
  | .hz30 => 60
  | .hz35 => 70
  | .hz50 => 100
  | .hz70 => 140
  | .hz110 => 220

/-- `CUTOFF_TABLE`: the sixteen entries (R127). -/
def cutoffTable : Row → Column → Cutoff
  | .hz100, .low => .hz12p5
  | .hz100, .medLow => .hz12p5
  | .hz100, .medHigh => .hz25
  | .hz100, .high => .hz25
  | .hz200, .low => .hz12p5
  | .hz200, .medLow => .hz25
  | .hz200, .medHigh => .hz50
  | .hz200, .high => .hz70
  | .hz400, .low => .hz20
  | .hz400, .medLow => .hz25
  | .hz400, .medHigh => .hz50
  | .hz400, .high => .hz110
  | .hz800, .low => .hz30
  | .hz800, .medLow => .hz35
  | .hz800, .medHigh => .hz50
  | .hz800, .high => .hz110

/-- The IEEE 754 binary32 pattern of a cutoff in hertz (R129). -/
def binary32 : Cutoff → Result
  | .hz12p5 => 0x41480000#32
  | .hz20 => 0x41A00000#32
  | .hz25 => 0x41C80000#32
  | .hz30 => 0x41F00000#32
  | .hz35 => 0x420C0000#32
  | .hz50 => 0x42480000#32
  | .hz70 => 0x428C0000#32
  | .hz110 => 0x42DC0000#32

end Sys2Proof
end

