-- ==== Sys2Proof/Machine/Operands.lean ====
section
/-! DEFINITION. Operands and results as the caller sees them: the rate codec (spec/41_rate.md rules
R110 to R112) and the bandwidth codec with its table (spec/42_bandwidth.md rules R124 to R126). The
assembly of an operand from the command word (spec/30_encoding.md rule R81) is in Decode.lean. -/

namespace Sys2Proof.Machine

open Sys2Proof.Config

/-- The rate operand: the low `RATE_W` bits of what `arg` carries (R7, R81); bits above are unused,
and unused bits of `arg` are ignored (R84). -/
def rateArg (p : Params) (rateHz : RateHz) : RateHz :=
  BitVec.ofNat 16 (rateHz.toNat % 2 ^ p.rateW)

/-- `encRate` (R111): exact equality, every other value is the 800 Hz code. -/
def encRate (p : Params) (rateHz : RateHz) : Code :=
  if rateHz = 100#16 then p.rc100
  else if rateHz = 200#16 then p.rc200
  else if rateHz = 400#16 then p.rc400
  else p.rc800

/-- The row a raw rate value selects, every value but the three distinguished codes the 800 row
(R112, R124). -/
def rowOf (p : Params) (raw : Byte) : Row :=
  if raw = p.rc100.setWidth 8 then .hz100
  else if raw = p.rc200.setWidth 8 then .hz200
  else if raw = p.rc400.setWidth 8 then .hz400
  else .hz800

/-- The rate in hertz that names a row. -/
def rowHz : Row → RateHz
  | .hz100 => 100#16
  | .hz200 => 200#16
  | .hz400 => 400#16
  | .hz800 => 800#16

/-- `decRate` (R112). The four rates fit in `RATE_W` bits (`Params.rateFits`). -/
def decRate (p : Params) (raw : Byte) : RateHz := rowHz (rowOf p raw)

/-- `colOf` (R125): every value but the three lower mode codes is column HIGH. -/
def colOf (p : Params) (raw : Byte) : Column :=
  if raw = p.bmLow.setWidth 8 then .low
  else if raw = p.bmMedLow.setWidth 8 then .medLow
  else if raw = p.bmMedHigh.setWidth 8 then .medHigh
  else .high

/-- The raw mode code that names a column (R120). -/
def columnCode (p : Params) : Column → Code
  | .low => p.bmLow
  | .medLow => p.bmMedLow
  | .medHigh => p.bmMedHigh
  | .high => p.bmHigh

/-- `cutoff` (R126), total over all pairs of bytes. -/
def cutoff (p : Params) (rawRate rawMode : Byte) : Cutoff :=
  cutoffTable (rowOf p rawRate) (colOf p rawMode)

end Sys2Proof.Machine
end

