-- ==== Sys2Proof/Machine/Bits.lean ====
section
/-! DEFINITION. Bit fields of a byte: what the transport primitives do to the byte they read
(spec/20_memory.md rules R57 to R59). Bit 0 is the least significant (spec/00_scope.md rule R9). -/

namespace Sys2Proof.Machine

/-- The low end of the range whose high end is `hi`: `lo = hi - len + 1` (R57). -/
def lowBit (hi len : Nat) : Nat := hi + 1 - len

/-- `2^len - 1` as a byte. -/
def lowMask (len : Nat) : Byte := BitVec.ofNat 8 (2 ^ len - 1)

/-- The mask of a field, `((2^len - 1) << lo) & 0xFF` (R59). -/
def fieldMask (hi len : Nat) : Byte := lowMask len <<< lowBit hi len

/-- `(b >> lo) & (2^len - 1)`: the field, right-aligned (R57). -/
def readField (b : Byte) (hi len : Nat) : Byte := (b >>> lowBit hi len) &&& lowMask len

/-- `(b & ~mask) | ((v << lo) & mask)`: the byte with the field replaced by the low `len` bits of
`v` (R59). -/
def writeField (b : Byte) (hi len : Nat) (v : Byte) : Byte :=
  (b &&& ~~~fieldMask hi len) ||| ((v <<< lowBit hi len) &&& fieldMask hi len)

/-- The byte with one bit set if `v ≠ 0`, cleared if `v = 0` (R58). -/
def writeBitOf (b : Byte) (bit : Nat) (v : Byte) : Byte :=
  if v ≠ 0 then b ||| (1#8 <<< bit) else b &&& ~~~(1#8 <<< bit)

/-- "A bit range must lie inside one register: `0 ≤ lo ≤ hi ≤ 7`" (R55). -/
def rangeInside (hi len : Nat) : Bool :=
  decide (1 ≤ len) && decide (len ≤ hi + 1) && decide (hi ≤ 7)

end Sys2Proof.Machine
end

