-- ==== Sys2Proof/Machine/Flags.lean ====
section
/-! DEFINITION. The bits and values of a response. The block has no status flags
(spec/10_state.md rule R23): `ill` and `xfail` are outputs of one operation (spec/30_encoding.md
rules R85 and R86). -/

namespace Sys2Proof.Machine

/-- A response `{ill, xfail, result}` (R85). -/
structure Response where
  ill : Bool
  xfail : Bool
  result : Result
  deriving DecidableEq, Repr

/-- `rsp[33:0] = {ill, xfail, result}` (R85). -/
def packResponse (r : Response) : BitVec 34 :=
  BitVec.ofBool r.ill ++ (BitVec.ofBool r.xfail ++ r.result)

/-- `zext_32(b2i(c))` (R10, R85). -/
def boolResult (c : Bool) : Result := if c then 1#32 else 0#32

/-- `xfail`: some primitive of the operation returned `ok = 0` (R86, step 4). -/
def xfailOf (oks : List Bool) : Bool := oks.any fun ok => !ok

/-- The answer to a reserved opcode: `ill = 1`, `xfail = 0`, `result = 0` (R83). -/
def illResponse : Response := ⟨true, false, 0#32⟩

end Sys2Proof.Machine
end

