-- ==== Sys2Proof/Machine/State.lean ====
section
/-! DEFINITION. The state of the block (spec/10_state.md rule R20), the reasons the model can stop,
and the state after reset (R39, R40; spec/70_reset_and_hazards.md rules R170 and R171). -/

namespace Sys2Proof.Machine

open Sys2Proof.Config

/-- The free inputs of the environment (R62, R176): what is given of them, oldest first, and how
many were drawn from the opaque constants of Config. The model's own field, not the block's state. -/
structure Env where
  /-- Given inputs of the next transport primitives (R60 to R62). -/
  outcomes : List BusOutcome
  /-- Given moves of the other master at the next interleaving points (R176). -/
  others : List (Option Byte)
  /-- How many free values have been drawn beyond the two lists. -/
  drawn : Nat
  deriving DecidableEq, Repr

structure State where
  /-- The implementation parameters (R7): no step changes them. -/
  cfg : Params
  /-- `DEVADDR` (R24). -/
  devaddr : DevAddr
  /-- `IDENT` (R26). -/
  ident : Byte
  /-- `CTRL1` (R27). -/
  ctrl1 : Byte
  /-- The environment's free inputs. The model's own field. -/
  env : Env
  /-- The command words the caller has issued or will issue, oldest first (R22, R80). The model's
  own field. -/
  commands : List Cmd
  /-- The responses given so far, oldest first (R85). The model's own field. -/
  responses : List Response
  deriving DecidableEq, Repr

/-- The block raises no exception and records no fault (spec/60_exceptions.md rule R150), so no
meaning raises one: there is no fault to name. -/
inductive Fault where
  deriving DecidableEq, Repr

/-- Why the model gives a step no meaning. -/
inductive Refusal where
  /-- Raised by an arm of `exec` whose operation has no meaning yet. Safe: the model stops. -/
  | notModelled (mnemonic : String)
  /-- Raised by a transport primitive at a register address outside the map (R54, D28). No operation
  issues one. Safe: the model stops where the spec defines nothing. -/
  | unmappedRegister (r : RegAddr)
  /-- Raised by a bit primitive whose range does not lie inside one register (R55). No operation
  issues one when the parameters meet R8. Safe: as above. -/
  | rangeOutsideRegister (hi len : Nat)
  /-- Raised by a bit primitive that reads either register, or writes `CTRL1`, with a range inside
  the register that is none of the six fields' (R54, U18). No operation issues one. Safe: as
  above. -/
  | rangeOtherThanField (hi len : Nat)
  deriving DecidableEq, Repr

/-- What an operation ends in. -/
abbrev Answer (σ : Type) := Host.Outcome σ Fault Refusal

/-- Reset with the straps `use_default` and `addr` (R171): it binds `DEVADDR`, leaves `IDENT` at its
constant and `CTRL1` at the unspecified reset value, and issues no primitive (R170). The strap `addr`
has `DADDR_W` bits. -/
def State.resetWith (p : Params) (useDefault : Bool) (addr : DevAddr) : State where
  cfg := p
  devaddr := if useDefault then p.defaultAddress else addr % 2 ^ p.daddrW
  ident := identValue
  ctrl1 := p.ctrl1Reset
  env := ⟨[], [], 0⟩
  commands := []
  responses := []

/-- The block after reset with `use_default = 1` (`BIND_DEFAULT`) and the spec's default parameters.
DESIGN CHOICE: the strap; R171 gives both bindings. -/
def State.reset : State := State.resetWith standardParams true 0

end Sys2Proof.Machine
end

