-- ==== Sys2Proof/Machine/Ops.lean ====
section
/-! DEFINITION. The named operations: the register file, the free inputs, the four transport
primitives (spec/20_memory.md rules R50 to R62), and giving a response (spec/30_encoding.md rule
R86). There is no operation that takes an exception: the block has none (spec/60_exceptions.md rules
R150 and R155). -/

namespace Sys2Proof.Machine

open Sys2Proof.Config

/-! ### Updates of one field of the state -/

/-- `CTRL1 <- b`. -/
def State.setCtrl1 (s : State) (b : Byte) : State := { s with ctrl1 := b }

def State.setEnv (s : State) (e : Env) : State := { s with env := e }

def State.setCommands (s : State) (ws : List Cmd) : State := { s with commands := ws }

def State.setResponses (s : State) (rs : List Response) : State := { s with responses := rs }

/-! ### The register file -/

/-- The two entries of the register map (R25). -/
inductive Reg where
  | ident | ctrl1
  deriving DecidableEq, Repr

/-- Which register stands at a register address; `none` outside the map (R52, R54). -/
def regAt (p : Params) (r : RegAddr) : Option Reg :=
  if r = p.aIdent then some .ident else if r = p.aCtrl1 then some .ctrl1 else none

/-- `CSR[r]` (R25). -/
def readReg (s : State) : Reg → Byte
  | .ident => s.ident
  | .ctrl1 => s.ctrl1

/-- `CSR[r] <- b`; a write addressed to `IDENT` changes nothing (R26, D23). -/
def writeReg (s : State) (r : Reg) (b : Byte) : State :=
  match r with
  | .ident => s
  | .ctrl1 => s.setCtrl1 b

/-- Field `f` of `CTRL1`, right-aligned (R27). -/
def State.field (s : State) (f : Field) : Byte :=
  readField s.ctrl1 (fieldHi s.cfg f) (fieldLen f)

/-! ### The free inputs -/

/-- The inputs of the next transport primitive: the oldest given ones, else a free value. Under the
premise `IDEAL_TRANSPORT` none fails (R62). -/
def State.outcome (s : State) : BusOutcome :=
  let o := s.env.outcomes.headD (busOutcome s.env.drawn)
  { o with fails := !s.cfg.idealTransport && o.fails }

/-- The environment after one transport primitive. -/
def Env.afterPrimitive (e : Env) : Env :=
  match e.outcomes with
  | [] => { e with drawn := e.drawn + 1 }
  | _ :: os => { e with outcomes := os }

/-- The state after the inputs of one primitive have been taken. -/
def State.afterPrimitive (s : State) : State := s.setEnv s.env.afterPrimitive

/-- The other master's next move: the oldest given one, else a free value. -/
def Env.nextOther (e : Env) : Option Byte := e.others.headD (otherMaster e.drawn)

/-- The environment after one move of the other master. -/
def Env.afterOther (e : Env) : Env :=
  match e.others with
  | [] => { e with drawn := e.drawn + 1 }
  | _ :: os => { e with others := os }

/-- An interleaving point: the other master may replace `CTRL1` by any byte, and changes nothing
else; under the premise `EXCLUSIVE_BUS` it never moves (R64, R176). -/
def State.interleave (s : State) : State :=
  if s.cfg.exclusiveBus then s
  else (s.setCtrl1 (s.env.nextOther.getD s.ctrl1)).setEnv s.env.afterOther

/-! ### The transport primitives -/

/-- What a read primitive returns, and the state after it. -/
structure ReadReply where
  value : Byte
  ok : Bool
  state : State
  deriving DecidableEq, Repr

/-- What a write primitive returns, and the state after it. -/
structure WriteReply where
  ok : Bool
  state : State
  deriving DecidableEq, Repr

/-- The CSR file is reached by a range of one of the six fields and by no other (R54, U18). -/
def fieldRange (p : Params) (hi len : Nat) : Except Refusal Unit :=
  if isFieldRange p hi len then .ok () else .error (.rangeOtherThanField hi len)

/-- A write addressed to `IDENT` changes nothing, whatever its range (D23). -/
def writeRange (range : Except Refusal Unit) : Reg → Except Refusal Unit
  | .ident => .ok ()
  | .ctrl1 => range

/-- One read primitive: `get` is what it makes of the register's byte. A primitive to another device
address, or one the transport fails, delivers an arbitrary byte with `ok = 0` (R51, R60). -/
def readWith (a : DevAddr) (r : RegAddr) (range : Except Refusal Unit) (get : Byte → Byte)
    (s : State) : Except Refusal ReadReply :=
  if a ≠ s.cfg.selfAddr then .ok ⟨s.outcome.junk, false, s.afterPrimitive⟩
  else match regAt s.cfg r with
    | none => .error (.unmappedRegister r)
    | some reg => match range with
      | .error e => .error e
      | .ok _ =>
        .ok ⟨if s.outcome.fails then s.outcome.junk else get (readReg s reg),
          !s.outcome.fails, s.afterPrimitive⟩

/-- One write primitive: it reads the whole byte, the other master may act, and the byte `put` makes
of the one read is written back whole (R58, R59). One that fails leaves the register as it then is
or as the write would have left it (R61); one to another device address reaches nothing (R51). -/
def writeWith (a : DevAddr) (r : RegAddr) (range : Except Refusal Unit) (put : Byte → Byte)
    (s : State) : Except Refusal WriteReply :=
  if a ≠ s.cfg.selfAddr then .ok ⟨false, s.afterPrimitive⟩
  else match regAt s.cfg r with
    | none => .error (.unmappedRegister r)
    | some reg => match writeRange range reg with
      | .error e => .error e
      | .ok _ =>
        let new := put (readReg s reg)
        let u := s.afterPrimitive.interleave
        .ok ⟨!s.outcome.fails,
          writeReg u reg (if s.outcome.fails && !s.outcome.lands then readReg u reg else new)⟩

/-- `TReadByte(a, r)` (R56). -/
def tReadByte (a : DevAddr) (r : RegAddr) (s : State) : Except Refusal ReadReply :=
  readWith a r (.ok ()) (fun b => b) s

/-- `TReadBits(a, r, hi, len)` (R57). -/
def tReadBits (a : DevAddr) (r : RegAddr) (hi len : Nat) (s : State) : Except Refusal ReadReply :=
  if rangeInside hi len then readWith a r (fieldRange s.cfg hi len) (fun b => readField b hi len) s
  else .error (.rangeOutsideRegister hi len)

/-- `TWriteBit(a, r, bit, v)` (R58). -/
def tWriteBit (a : DevAddr) (r : RegAddr) (bit : Nat) (v : Byte) (s : State) :
    Except Refusal WriteReply :=
  if rangeInside bit 1 then writeWith a r (fieldRange s.cfg bit 1) (fun b => writeBitOf b bit v) s
  else .error (.rangeOutsideRegister bit 1)

/-- `TWriteBits(a, r, hi, len, v)` (R59). -/
def tWriteBits (a : DevAddr) (r : RegAddr) (hi len : Nat) (v : Byte) (s : State) :
    Except Refusal WriteReply :=
  if rangeInside hi len then
    writeWith a r (fieldRange s.cfg hi len) (fun b => writeField b hi len v) s
  else .error (.rangeOutsideRegister hi len)

/-! ### Operations -/

/-- Issue a read primitive and go on with what it returns (R86, steps 2 and 3). -/
def issueRead (p : Except Refusal ReadReply) (k : ReadReply → Answer State) : Answer State :=
  match p with
  | .error e => .refused e
  | .ok x => k x

/-- Issue a write primitive and go on with what it returns (R86, steps 2 and 3). -/
def issueWrite (p : Except Refusal WriteReply) (k : WriteReply → Answer State) : Answer State :=
  match p with
  | .error e => .refused e
  | .ok x => k x

/-- Give one more response. -/
def State.answer (s : State) (r : Response) : State := s.setResponses (s.responses ++ [r])

/-- `respond(result, xfail)` (R10, R86): end the operation. -/
def respond (s : State) (result : Result) (oks : List Bool) : Answer State :=
  .next (s.answer ⟨false, xfailOf oks, result⟩)

/-- `SETBIT(bitpos, arg)` (R143). -/
def setBit (bit : Nat) (flag : Bool) (s : State) : Answer State :=
  issueWrite (tWriteBit s.devaddr s.cfg.aCtrl1 bit (if flag then 1 else 0) s) fun x =>
    respond x.state 0 [x.ok]

/-- `GETBIT(bitpos)` (R143). -/
def getBit (bit : Nat) (s : State) : Answer State :=
  issueRead (tReadBits s.devaddr s.cfg.aCtrl1 bit 1 s) fun x =>
    respond x.state (boolResult (decide (x.value ≠ 0))) [x.ok]

/-- A setter of a field of several bits: one `TWriteBits` and an empty result (R113, R121). -/
def setField (hi len : Nat) (v : Byte) (s : State) : Answer State :=
  issueWrite (tWriteBits s.devaddr s.cfg.aCtrl1 hi len v s) fun x => respond x.state 0 [x.ok]

/-- A getter of a field of several bits: one `TReadBits`, its value decoded by `dec` (R114, R122). -/
def getField (hi len : Nat) (dec : Byte → Result) (s : State) : Answer State :=
  issueRead (tReadBits s.devaddr s.cfg.aCtrl1 hi len s) fun x =>
    respond x.state (dec x.value) [x.ok]

end Sys2Proof.Machine
end

