-- ==== Sys2Proof/Machine/Bandwidth.lean ====
section
/-! DEFINITION. `SETBWM`, `GETBWM` and `GETBWC` (spec/42_bandwidth.md). -/

namespace Sys2Proof.Machine

/-- `SETBWM` (R121, R123). -/
def execSetbwm (mode : Byte) (s : State) : Answer State := setField s.cfg.bwHi 2 mode s

/-- `GETBWM` (R122). -/
def execGetbwm (s : State) : Answer State := getField s.cfg.bwHi 2 (fun v => v.setWidth 32) s

/-- `GETBWC` (R128): the rate, then the mode, each read whatever the other reports; the other master
may act between the two reads (R176, R178). -/
def execGetbwc (s : State) : Answer State :=
  issueRead (tReadBits s.devaddr s.cfg.aCtrl1 s.cfg.rateHi 2 s) fun x =>
    issueRead (tReadBits s.devaddr s.cfg.aCtrl1 s.cfg.bwHi 2 x.state.interleave) fun y =>
      respond y.state (binary32 (cutoff s.cfg x.value y.value)) [x.ok, y.ok]

end Sys2Proof.Machine
end

