-- ==== Sys2Proof/Machine/Lifecycle.lean ====
section
/-! DEFINITION. `INIT` and `TESTCONN` (spec/40_lifecycle_identity.md). -/

namespace Sys2Proof.Machine

/-- `INIT` (R100): one `TWriteBit` of the power flag with value 1. -/
def execInit (s : State) : Answer State := setBit s.cfg.pwrBit true s

/-- `TESTCONN` (R102): true iff the byte read from `IDENT`'s address equals `IDENT_VALUE`. -/
def execTestconn (s : State) : Answer State :=
  issueRead (tReadByte s.devaddr s.cfg.aIdent s) fun x =>
    respond x.state (boolResult (decide (x.value = identValue))) [x.ok]

end Sys2Proof.Machine
end

