-- ==== Sys2Proof/Machine/PowerAxis.lean ====
section
/-! DEFINITION. The power and axis-enable accessors (spec/43_power_axis.md), all of the shared
pattern of rule R143. -/

namespace Sys2Proof.Machine

/-- `SETPWR` (R135). -/
def execSetpwr (on : Bool) (s : State) : Answer State := setBit s.cfg.pwrBit on s

/-- `GETPWR` (R136). -/
def execGetpwr (s : State) : Answer State := getBit s.cfg.pwrBit s

/-- `SETXEN` (R137). -/
def execSetxen (enabled : Bool) (s : State) : Answer State := setBit s.cfg.xenBit enabled s

/-- `GETXEN` (R138). -/
def execGetxen (s : State) : Answer State := getBit s.cfg.xenBit s

/-- `SETYEN` (R139). -/
def execSetyen (enabled : Bool) (s : State) : Answer State := setBit s.cfg.yenBit enabled s

/-- `GETYEN` (R140). -/
def execGetyen (s : State) : Answer State := getBit s.cfg.yenBit s

/-- `SETZEN` (R141). -/
def execSetzen (enabled : Bool) (s : State) : Answer State := setBit s.cfg.zenBit enabled s

/-- `GETZEN` (R142). -/
def execGetzen (s : State) : Answer State := getBit s.cfg.zenBit s

end Sys2Proof.Machine
end

