-- ==== Sys2Proof/Machine/Rate.lean ====
section
/-! DEFINITION. `SETRATE` and `GETRATE` (spec/41_rate.md). -/

namespace Sys2Proof.Machine

/-- `SETRATE` (R113). -/
def execSetrate (rateHz : RateHz) (s : State) : Answer State :=
  setField s.cfg.rateHi 2 ((encRate s.cfg (rateArg s.cfg rateHz)).setWidth 8) s

/-- `GETRATE` (R114). -/
def execGetrate (s : State) : Answer State :=
  getField s.cfg.rateHi 2 (fun v => (decRate s.cfg v).setWidth 32) s

end Sys2Proof.Machine
end

