-- ==== Sys2Proof/Machine/Dispatch.lean ====
section
/-! DEFINITION. The operation's meaning, one arm per constructor (spec/30_encoding.md rule R82). -/

namespace Sys2Proof.Machine

def exec (i : Instr) (s : State) : Host.Outcome State Fault Refusal :=
  match i with
  | .init => Sys2Proof.Machine.execInit s
  | .testconn => Sys2Proof.Machine.execTestconn s
  | .setrate rateHz => Sys2Proof.Machine.execSetrate rateHz s
  | .getrate => Sys2Proof.Machine.execGetrate s
  | .setbwm mode => Sys2Proof.Machine.execSetbwm mode s
  | .getbwm => Sys2Proof.Machine.execGetbwm s
  | .getbwc => Sys2Proof.Machine.execGetbwc s
  | .setpwr on => Sys2Proof.Machine.execSetpwr on s
  | .getpwr => Sys2Proof.Machine.execGetpwr s
  | .setxen enabled => Sys2Proof.Machine.execSetxen enabled s
  | .getxen => Sys2Proof.Machine.execGetxen s
  | .setyen enabled => Sys2Proof.Machine.execSetyen enabled s
  | .getyen => Sys2Proof.Machine.execGetyen s
  | .setzen enabled => Sys2Proof.Machine.execSetzen enabled s
  | .getzen => Sys2Proof.Machine.execGetzen s

end Sys2Proof.Machine
end

