-- ==== Sys2Proof/Machine/Fetch.lean ====
section
/-! DEFINITION. Taking the next command word and running it (spec/30_encoding.md rule R86). Between
two operations the other master may act (spec/70_reset_and_hazards.md rule R176); with no command
waiting nothing else happens (spec/60_exceptions.md rule R153). -/

namespace Sys2Proof.Machine

/-- One command word, already taken from the queue: an operation runs, a reserved opcode is answered
`ill` at once (R83, R86). -/
def runWord (w : Cmd) (s : State) : Answer State :=
  match decode w with
  | .op i => exec i s
  | .reserved _ => .next (s.answer illResponse)

/-- The interleaving point between two operations, then the oldest command, if any. -/
def runNext (s : State) : Answer State :=
  match s.commands with
  | [] => .next s.interleave
  | w :: rest => runWord w (s.interleave.setCommands rest)

/-- The caller issues `w` as the next command. -/
def State.issueFirst (s : State) (w : Cmd) : State := s.setCommands (w :: s.commands)

end Sys2Proof.Machine
end

