-- ==== Sys2Proof/Machine/Step.lean ====
section
/-! DEFINITION. One step of the block: one command word, from its acceptance to its response
(spec/30_encoding.md rule R86), or, with none waiting, a step in which the block does nothing. -/

namespace Sys2Proof.Machine

def step (s : State) : Host.Outcome State Fault Refusal := runNext s

/-- `s` with one more command word, the next to be executed. -/
def State.withFetchWord (s : State) (nbits w : Nat) : State :=
  s.issueFirst (tableWord nbits w)

end Sys2Proof.Machine
end

