-- ==== Sys2Proof/Machine/Assembler.lean ====
section
/-! DEFINITION. The textual form of commands and programs (spec/30_encoding.md rules R89 and R90,
spec/10_state.md rule R22): how a program comes to stand in the caller's queue. -/

namespace Sys2Proof.Machine

open Sys2Proof.Config

/-- The mnemonics of R82; the source's method names are aliases of them (R89). -/
inductive Mnemonic where
  | INIT | TESTCONN | SETRATE | GETRATE | SETBWM | GETBWM | GETBWC | SETPWR | GETPWR
  | SETXEN | GETXEN | SETYEN | GETYEN | SETZEN | GETZEN
  deriving DecidableEq, Repr

/-- The operand of a line: none, an unsigned number (decimal or hexadecimal), one of the four mode
names, or `false` or `true` (R89). -/
inductive AsmOperand where
  | absent
  | number (n : Nat)
  | modeName (c : Column)
  | truth (b : Bool)
  deriving DecidableEq, Repr

/-- An operation written as the bare mnemonic. -/
def asmBare (i : Instr) : AsmOperand → Option Instr
  | .absent => some i
  | .number _ => none
  | .modeName _ => none
  | .truth _ => none

/-- `SETRATE <0 to 65535>` (R89): an unsigned number of `RATE_W` bits (R81). -/
def asmRate (p : Params) : AsmOperand → Option Instr
  | .number n => if n < 2 ^ p.rateW then some (.setrate (BitVec.ofNat 16 n)) else none
  | .absent => none
  | .modeName _ => none
  | .truth _ => none

/-- `SETBWM <LOW | MED_LOW | MED_HIGH | HIGH | 0 to 255>` (R89). -/
def asmMode (p : Params) : AsmOperand → Option Instr
  | .number n => if n < 256 then some (.setbwm (BitVec.ofNat 8 n)) else none
  | .modeName c => some (.setbwm ((columnCode p c).setWidth 8))
  | .absent => none
  | .truth _ => none

/-- `SETPWR`, `SETXEN`, `SETYEN`, `SETZEN <0 | 1 | false | true>` (R89). -/
def asmFlag (i : Bool → Instr) : AsmOperand → Option Instr
  | .number 0 => some (i false)
  | .number 1 => some (i true)
  | .number _ => none
  | .truth b => some (i b)
  | .absent => none
  | .modeName _ => none

/-- The operation a mnemonic and its operand stand for (R89). -/
def assemble (p : Params) (m : Mnemonic) (o : AsmOperand) : Option Instr :=
  match m with
  | .INIT => asmBare .init o
  | .TESTCONN => asmBare .testconn o
  | .SETRATE => asmRate p o
  | .GETRATE => asmBare .getrate o
  | .SETBWM => asmMode p o
  | .GETBWM => asmBare .getbwm o
  | .GETBWC => asmBare .getbwc o
  | .SETPWR => asmFlag .setpwr o
  | .GETPWR => asmBare .getpwr o
  | .SETXEN => asmFlag .setxen o
  | .GETXEN => asmBare .getxen o
  | .SETYEN => asmFlag .setyen o
  | .GETYEN => asmBare .getyen o
  | .SETZEN => asmFlag .setzen o
  | .GETZEN => asmBare .getzen o

/-- The pseudo-operation at the head of a program (R90, R171). -/
inductive Binding where
  /-- `BIND_DEFAULT`. -/
  | useDefault
  /-- `BIND <addr>`. -/
  | address (a : DevAddr)
  deriving DecidableEq, Repr

/-- A program: reset with the binding, then the commands, issued in list order (R22, R90). -/
def startProgram (p : Params) (b : Binding) (is : List Instr) : State :=
  let s := match b with
    | .useDefault => State.resetWith p true 0
    | .address a => State.resetWith p false a
  s.setCommands (is.map encode)

/-! ### The text -/

/-- The mnemonics of R82 and their aliases, the source's method names (R89). -/
def mnemonicOf : String → Option Mnemonic
  | "INIT" => some .INIT
  | "initialize" => some .INIT
  | "TESTCONN" => some .TESTCONN
  | "testConnection" => some .TESTCONN
  | "SETRATE" => some .SETRATE
  | "setDataOutputRate" => some .SETRATE
  | "GETRATE" => some .GETRATE
  | "getDataOutputRate" => some .GETRATE
  | "SETBWM" => some .SETBWM
  | "setBandwidthCutOffMode" => some .SETBWM
  | "GETBWM" => some .GETBWM
  | "getBandwidthCutOffMode" => some .GETBWM
  | "GETBWC" => some .GETBWC
  | "getBandwidthCutOff" => some .GETBWC
  | "SETPWR" => some .SETPWR
  | "setPowerOn" => some .SETPWR
  | "GETPWR" => some .GETPWR
  | "getPowerOn" => some .GETPWR
  | "SETXEN" => some .SETXEN
  | "setXEnabled" => some .SETXEN
  | "GETXEN" => some .GETXEN
  | "getXEnabled" => some .GETXEN
  | "SETYEN" => some .SETYEN
  | "setYEnabled" => some .SETYEN
  | "GETYEN" => some .GETYEN
  | "getYEnabled" => some .GETYEN
  | "SETZEN" => some .SETZEN
  | "setZEnabled" => some .SETZEN
  | "GETZEN" => some .GETZEN
  | "getZEnabled" => some .GETZEN
  | _ => none

/-- The value of one digit, decimal or hexadecimal, of either case. -/
def digitOf (c : Char) : Option Nat :=
  let n := c.toNat
  if 48 ≤ n ∧ n ≤ 57 then some (n - 48)
  else if 65 ≤ n ∧ n ≤ 70 then some (n - 55)
  else if 97 ≤ n ∧ n ≤ 102 then some (n - 87)
  else none

/-- The number a list of digits stands for, most significant first, on top of `acc`. -/
def digitsValue (base : Nat) : Nat → List Char → Option Nat
  | acc, [] => some acc
  | acc, c :: cs =>
    match digitOf c with
    | some d => if d < base then digitsValue base (acc * base + d) cs else none
    | none => none

/-- An unsigned number, decimal or hexadecimal behind `0x` (R89). -/
def numberOf : List Char → Option Nat
  | [] => none
  | ['0', 'x'] => none
  | '0' :: 'x' :: cs => digitsValue 16 0 cs
  | c :: cs => digitsValue 10 0 (c :: cs)

/-- A number as an operand. -/
def numberOperand (t : String) : Option AsmOperand := (numberOf t.toList).map .number

/-- The operand of `SETBWM`: one of four names, or a number (R89). -/
def modeToken : String → Option AsmOperand
  | "LOW" => some (.modeName .low)
  | "MED_LOW" => some (.modeName .medLow)
  | "MED_HIGH" => some (.modeName .medHigh)
  | "HIGH" => some (.modeName .high)
  | t => numberOperand t

/-- The operand of a one-bit setter: `0`, `1`, `false` or `true` (R89). -/
def flagToken : String → Option AsmOperand
  | "0" => some (.number 0)
  | "1" => some (.number 1)
  | "false" => some (.truth false)
  | "true" => some (.truth true)
  | _ => none

/-- The operand type of an operation, as R82's table has it. -/
inductive OperandType where
  | none | rate | mode | bool
  deriving DecidableEq, Repr

def operandType : Mnemonic → OperandType
  | .INIT => .none
  | .TESTCONN => .none
  | .SETRATE => .rate
  | .GETRATE => .none
  | .SETBWM => .mode
  | .GETBWM => .none
  | .GETBWC => .none
  | .SETPWR => .bool
  | .GETPWR => .none
  | .SETXEN => .bool
  | .GETXEN => .none
  | .SETYEN => .bool
  | .GETYEN => .none
  | .SETZEN => .bool
  | .GETZEN => .none

/-- The operand the words after a mnemonic stand for: nothing, or one word of its type (R89). -/
def readOperand : OperandType → List String → Option AsmOperand
  | .none, [] => some .absent
  | .none, _ :: _ => Option.none
  | .rate, [t] => numberOperand t
  | .rate, _ => Option.none
  | .mode, [t] => modeToken t
  | .mode, _ => Option.none
  | .bool, [t] => flagToken t
  | .bool, _ => Option.none

/-- The words of a line, between blanks. -/
def wordsOf (line : String) : List String :=
  ((line.toList.splitOn ' ').filter fun w => !w.isEmpty).map String.ofList

/-- One command of a program (R89). -/
def assembleLine (p : Params) (line : String) : Option Instr :=
  match wordsOf line with
  | [] => none
  | m :: ts => (mnemonicOf m).bind fun m =>
    (readOperand (operandType m) ts).bind fun o => assemble p m o

/-- `BIND_DEFAULT` or `BIND <addr>`, an address of `DADDR_W` bits (R90, R171). -/
def bindingOf (p : Params) (line : String) : Option Binding :=
  match wordsOf line with
  | ["BIND_DEFAULT"] => some .useDefault
  | ["BIND", t] => (numberOf t.toList).bind fun n =>
    if n < 2 ^ p.daddrW then some (.address n) else none
  | _ => none

/-- The commands of a program, one per line (R89). -/
def assembleLines (p : Params) : List String → Option (List Instr)
  | [] => some []
  | line :: rest => (assembleLine p line).bind fun i =>
    (assembleLines p rest).map fun is => i :: is

/-- A whole program: its binding at the head, then its commands, started after reset (R90). -/
def loadProgram (p : Params) : List String → Option State
  | [] => none
  | head :: rest => (bindingOf p head).bind fun b =>
    (assembleLines p rest).map fun is => startProgram p b is

end Sys2Proof.Machine
end

