-- ==== Sys2Proof/WellFormed.lean ====
section
/-! DEFINITION. The constraints every instantiation of the parameters must satisfy
(spec/00_scope.md rules R7 and R8), one check each. `Instr` has no check of its own: the types of its
operands admit exactly the values the command word can carry (spec/30_encoding.md rule R81). -/

namespace Sys2Proof.Config

/-- The eight bit positions the six fields occupy (R27). -/
def Params.positions (p : Params) : List Nat :=
  [p.rateHi, p.rateLo, p.bwHi, p.bwLo, p.pwrBit, p.zenBit, p.yenBit, p.xenBit]

/-- "`RATE_HI = RATE_LO + 1` and `BW_HI = BW_LO + 1`" (R8). -/
def Params.contiguous (p : Params) : Bool :=
  decide (p.rateHi = p.rateLo + 1) && decide (p.bwHi = p.bwLo + 1)

/-- Every position lies inside the register (R55). -/
def Params.inside (p : Params) : Bool :=
  p.positions.all fun i => decide (i < 8)

/-- "the six fields are pairwise disjoint" (R8). -/
def Params.disjoint (p : Params) : Bool :=
  decide p.positions.Nodup

/-- "together cover all eight bits of `CTRL1`" (R8). -/
def Params.covers (p : Params) : Bool :=
  (List.range 8).all fun i => p.positions.contains i

/-- "`A_IDENT ≠ A_CTRL1`" (R8). -/
def Params.addressesDiffer (p : Params) : Bool :=
  decide (p.aIdent ≠ p.aCtrl1)

/-- "the four rate codes are pairwise distinct" (R8). -/
def Params.rateCodesDiffer (p : Params) : Bool :=
  decide [p.rc100, p.rc200, p.rc400, p.rc800].Nodup

/-- "and so are the four mode codes" (R8). -/
def Params.modeCodesDiffer (p : Params) : Bool :=
  decide [p.bmLow, p.bmMedLow, p.bmMedHigh, p.bmHigh].Nodup

/-- Every address has the width R7's table gives it: `RADDR_W` or `DADDR_W` bits. -/
def Params.addressesFit (p : Params) : Bool :=
  decide (p.aIdent < 2 ^ p.raddrW) && decide (p.aCtrl1 < 2 ^ p.raddrW) &&
    decide (p.defaultAddress < 2 ^ p.daddrW) && decide (p.selfAddr < 2 ^ p.daddrW)

/-- `RATE_W` bits hold 800 and 999 (D18) and stand in `arg[15:0]` (R81). -/
def Params.rateFits (p : Params) : Bool :=
  decide (10 ≤ p.rateW) && decide (p.rateW ≤ 16)

/-- The constraints of R8 and the widths of R7, all together. -/
def Params.wf (p : Params) : Bool :=
  p.contiguous && p.inside && p.disjoint && p.covers &&
    p.addressesDiffer && p.rateCodesDiffer && p.modeCodesDiffer &&
    p.addressesFit && p.rateFits

end Sys2Proof.Config
end

