-- ==== Sys2Proof/Safety.lean ====
section
/-! DEFINITION. The terms claims are stated in: the spec's named premises
(spec/70_reset_and_hazards.md rule R184), what a legal state is, and what an operation may do to one.
`IDLE_AT_START` holds of every state, since an operation is one step. -/

namespace Sys2Proof.Machine

open Sys2Proof.Config

/-- `BOUND`: `DEVADDR = SELF_ADDR` (R184). -/
abbrev State.Bound (s : State) : Prop := s.devaddr = s.cfg.selfAddr

/-- `IDEAL_TRANSPORT`: `BOUND`, and no primitive fails (R62, R184). -/
abbrev State.IdealTransport (s : State) : Prop := s.Bound ∧ s.cfg.idealTransport = true

/-- `EXCLUSIVE_BUS`: the other master never moves (R176, R184). -/
abbrev State.ExclusiveBus (s : State) : Prop := s.cfg.exclusiveBus = true

/-- `CTRL1_KNOWN(v)` (R184). -/
abbrev State.Ctrl1Known (s : State) (v : Byte) : Prop := s.ctrl1 = v

/-- The parameters meet R8, `IDENT` holds its constant (R26) and `DEVADDR` is `DADDR_W` bits wide
(R24). -/
abbrev State.Legal (s : State) : Prop :=
  s.cfg.wf = true ∧ s.ident = identValue ∧ s.devaddr < 2 ^ s.cfg.daddrW

/-- A response to a reserved opcode carries nothing else: `ill = 1` implies `xfail = 0` (R154) and
`result = 0` (R83). -/
abbrev Response.Legal (r : Response) : Prop :=
  r.ill = true → r.xfail = false ∧ r.result = 0

/-- The invariant of the block: a legal state whose responses are legal. -/
abbrev State.Inv (s : State) : Prop := s.Legal ∧ ∀ r ∈ s.responses, r.Legal

/-- The next primitive of the accessor unit reports failure: it is bound to another device, or the
transport fails (R51, R62). -/
def State.primFails (s : State) : Bool :=
  decide (s.devaddr ≠ s.cfg.selfAddr) || s.outcome.fails

/-- What the next read primitive delivers where a working one delivers `v` (R60). -/
def State.delivered (s : State) (v : Byte) : Byte :=
  if s.primFails then s.outcome.junk else v

/-- Nothing but `CTRL1`, the environment and the responses differs. -/
abbrev SameElsewhere (s t : State) : Prop :=
  t.cfg = s.cfg ∧ t.devaddr = s.devaddr ∧ t.ident = s.ident ∧ t.commands = s.commands

/-- `CTRL1` holds `v` in field `f`, and what it held in `s` in the five other fields (R144). -/
abbrev FieldWritten (f : Field) (v : Byte) (s t : State) : Prop :=
  t.field f = v ∧ ∀ g, g ≠ f → t.field g = s.field g

/-- What a setter of field `f` to `v` does, whatever the transport and the other master do. A
primitive that succeeds leaves the five other fields as it read them (R58, R59, R177). One that
fails leaves `CTRL1` as it then is, the other master's move included, or as the write would have
left it (R61), and nothing is reached at a wrong device address (R51). The response says whether it
failed (R86). The free inputs taken are those of exactly one write primitive. -/
def SetsField (f : Field) (v : Byte) (s t : State) : Prop :=
  SameElsewhere s t ∧
  t.responses = s.responses ++ [⟨false, s.primFails, 0⟩] ∧
  (s.primFails = false → FieldWritten f v s t) ∧
  (s.primFails = true → s.Bound →
    t.ctrl1 = s.afterPrimitive.interleave.ctrl1 ∨ FieldWritten f v s t) ∧
  (¬ s.Bound → t.ctrl1 = s.ctrl1) ∧
  t.env = if s.Bound then s.afterPrimitive.interleave.env else s.afterPrimitive.env

/-- The field a setter writes and the value it writes there; `none` for a getter (R53). -/
def setterOf (p : Params) : Instr → Option (Field × Byte)
  | .init => some (.pwr, 1)
  | .testconn => none
  | .setrate rateHz => some (.rate, (encRate p (rateArg p rateHz)).setWidth 8)
  | .getrate => none
  | .setbwm mode => some (.bw, mode &&& 3)
  | .getbwm => none
  | .getbwc => none
  | .setpwr on => some (.pwr, if on then 1 else 0)
  | .getpwr => none
  | .setxen enabled => some (.xen, if enabled then 1 else 0)
  | .getxen => none
  | .setyen enabled => some (.yen, if enabled then 1 else 0)
  | .getyen => none
  | .setzen enabled => some (.zen, if enabled then 1 else 0)
  | .getzen => none

/-- The rates a getter may answer (R112). -/
def legalRates : List Result := [100, 200, 400, 800]

/-- The cutoffs a getter may answer, as binary32 patterns (R129). -/
def legalCutoffs : List Result :=
  [0x41480000, 0x41A00000, 0x41C80000, 0x41F00000, 0x420C0000, 0x42480000, 0x428C0000, 0x42DC0000]

/-- The results an operation may answer, by its result type (R82, R85). -/
def legalResult : Instr → Result → Prop
  | .init, r => r = 0
  | .testconn, r => r = 0 ∨ r = 1
  | .setrate _, r => r = 0
  | .getrate, r => r ∈ legalRates
  | .setbwm _, r => r = 0
  | .getbwm, r => r.toNat < 256
  | .getbwc, r => r ∈ legalCutoffs
  | .setpwr _, r => r = 0
  | .getpwr, r => r = 0 ∨ r = 1
  | .setxen _, r => r = 0
  | .getxen, r => r = 0 ∨ r = 1
  | .setyen _, r => r = 0
  | .getyen, r => r = 0 ∨ r = 1
  | .setzen _, r => r = 0
  | .getzen, r => r = 0 ∨ r = 1

/-- How many transport primitives an operation issues (R53, R182). -/
def primitiveCount : Instr → Nat
  | .init => 1
  | .testconn => 1
  | .setrate _ => 1
  | .getrate => 1
  | .setbwm _ => 1
  | .getbwm => 1
  | .getbwc => 2
  | .setpwr _ => 1
  | .getpwr => 1
  | .setxen _ => 1
  | .getxen => 1
  | .setyen _ => 1
  | .getyen => 1
  | .setzen _ => 1
  | .getzen => 1

/-- Operations one after another, each from the state the one before it left (R22). -/
def execAll : List Instr → State → Answer State
  | [], s => .next s
  | i :: is, s =>
    match exec i s with
    | .next t => execAll is t
    | .fault f => .fault f
    | .refused r => .refused r

end Sys2Proof.Machine
end

