-- ==== Sys2Proof/Certificates/Slice0/Obligations.lean ====
section
/-! DEFINITION. The statements for the provers. Each names the rule of spec/ it formalises.
OBLIGATIONS.json says which of them state a rule and which are derived. The opcodes (D14), the
response format (D15), what a failure leaves (D11 to D13) and the other master (D24) are decisions
of the spec's own, in spec/92_eei_decisions.md, which the rules of the operations repeat. -/

open Sys2Proof Sys2Proof.Machine Sys2Proof.Config

/-! ### Command words -/

/-- 30_encoding R80 to R82: no bit of a command word is dropped. -/
def Obligations.DecodeOfEncodeIsTheOperation : Prop :=
  ∀ i : Instr, decode (encode i) = .op i

/-- The words of 30_encoding's "Worked encodings". -/
def Obligations.WorkedEncodingsDecode : Prop :=
  decode 0x010000 = .op .init ∧ decode 0x020000 = .op .testconn ∧
  decode 0x0300C8 = .op (.setrate 200) ∧ decode 0x0303E7 = .op (.setrate 999) ∧
  decode 0x040000 = .op .getrate ∧ decode 0x050002 = .op (.setbwm 2) ∧
  decode 0x060000 = .op .getbwm ∧ decode 0x070000 = .op .getbwc ∧
  decode 0x080001 = .op (.setpwr true) ∧ decode 0x0A0000 = .op (.setxen false) ∧
  decode 0x0F0000 = .op .getzen ∧
  decode 0x000000 = .reserved 0x00 ∧ decode 0x100000 = .reserved 0x10 ∧
  decode 0xFF1234 = .reserved 0xFF

/-- 30_encoding R81: operand assembly, and what an assembler emits. -/
def Obligations.OperandsAreAssembledFromArg : Prop :=
  (∀ arg : BitVec 16,
    decode (commandWord 0x01 arg) = .op .init ∧ decode (commandWord 0x02 arg) = .op .testconn ∧
    decode (commandWord 0x04 arg) = .op .getrate ∧ decode (commandWord 0x06 arg) = .op .getbwm ∧
    decode (commandWord 0x07 arg) = .op .getbwc ∧ decode (commandWord 0x09 arg) = .op .getpwr ∧
    decode (commandWord 0x0B arg) = .op .getxen ∧ decode (commandWord 0x0D arg) = .op .getyen ∧
    decode (commandWord 0x0F arg) = .op .getzen ∧
    decode (commandWord 0x03 arg) = .op (.setrate arg) ∧
    decode (commandWord 0x08 arg) = .op (.setpwr (decide (arg ≠ 0))) ∧
    decode (commandWord 0x0A arg) = .op (.setxen (decide (arg ≠ 0))) ∧
    decode (commandWord 0x0C arg) = .op (.setyen (decide (arg ≠ 0))) ∧
    decode (commandWord 0x0E arg) = .op (.setzen (decide (arg ≠ 0)))) ∧
  (∀ ignored mode : Byte, decode (commandWord 0x05 (ignored ++ mode)) = .op (.setbwm mode)) ∧
  encode .init = 0x010000 ∧ encode .testconn = 0x020000 ∧ encode .getrate = 0x040000 ∧
  encode .getbwm = 0x060000 ∧ encode .getbwc = 0x070000 ∧ encode .getpwr = 0x090000 ∧
  encode .getxen = 0x0B0000 ∧ encode .getyen = 0x0D0000 ∧ encode .getzen = 0x0F0000 ∧
  (∀ r : RateHz, encode (.setrate r) = commandWord 0x03 r) ∧
  (∀ mode : Byte, encode (.setbwm mode) = commandWord 0x05 (0#8 ++ mode)) ∧
  (∀ b : Bool, encode (.setpwr b) = commandWord 0x08 (0#15 ++ BitVec.ofBool b)) ∧
  (∀ b : Bool, encode (.setxen b) = commandWord 0x0A (0#15 ++ BitVec.ofBool b)) ∧
  (∀ b : Bool, encode (.setyen b) = commandWord 0x0C (0#15 ++ BitVec.ofBool b)) ∧
  (∀ b : Bool, encode (.setzen b) = commandWord 0x0E (0#15 ++ BitVec.ofBool b))

/-- 30_encoding R82, R83, R84: every word is a word of exactly one row, or reserved. -/
def Obligations.EveryWordIsOneRowOrReserved : Prop :=
  ∀ w : Cmd,
    (((w.extractLsb' 16 8).toNat = 0 ∨ 0x10 ≤ (w.extractLsb' 16 8).toNat) ∧
      decode w = .reserved (w.extractLsb' 16 8)) ∨
    (1 ≤ (w.extractLsb' 16 8).toNat ∧ (w.extractLsb' 16 8).toNat < 0x10 ∧
      ∃ i, decode w = .op i ∧ encode i &&& 0xFF0000 = w &&& 0xFF0000)

/-- 30_encoding R89 (the spec's decision D14): what a mnemonic with each operand assembles to, and
which mnemonic and operand a line of text is read as. How words are separated is log entry 25. -/
def Obligations.LinesAssembleToTheirOperation : Prop :=
  ∀ p : Params,
    (∀ x ∈ [(Mnemonic.INIT, Instr.init), (.TESTCONN, .testconn), (.GETRATE, .getrate),
        (.GETBWM, .getbwm), (.GETBWC, .getbwc), (.GETPWR, .getpwr), (.GETXEN, .getxen),
        (.GETYEN, .getyen), (.GETZEN, .getzen)],
      (∀ o, assemble p x.1 o = if o = .absent then some x.2 else none) ∧
      ∀ (line name : String), mnemonicOf name = some x.1 →
        (wordsOf line = [name] → assembleLine p line = some x.2) ∧
        ∀ t ts, wordsOf line = name :: t :: ts → assembleLine p line = none) ∧
    (∀ x ∈ [(Mnemonic.SETPWR, Instr.setpwr), (.SETXEN, .setxen), (.SETYEN, .setyen),
        (.SETZEN, .setzen)],
      (∀ o, assemble p x.1 o =
        if o = .number 0 ∨ o = .truth false then some (x.2 false)
        else if o = .number 1 ∨ o = .truth true then some (x.2 true) else none) ∧
      ∀ (line name : String), mnemonicOf name = some x.1 →
        (∀ t, wordsOf line = [name, t] → assembleLine p line =
          if t = "0" ∨ t = "false" then some (x.2 false)
          else if t = "1" ∨ t = "true" then some (x.2 true) else none) ∧
        (wordsOf line = [name] → assembleLine p line = none) ∧
        ∀ t u ts, wordsOf line = name :: t :: u :: ts → assembleLine p line = none) ∧
    ((∀ n, assemble p .SETRATE (.number n) =
        if n < 2 ^ p.rateW then some (.setrate (BitVec.ofNat 16 n)) else none) ∧
      (∀ o, (∀ n, o ≠ .number n) → assemble p .SETRATE o = none) ∧
      ∀ (line name : String), mnemonicOf name = some .SETRATE →
        (∀ t, wordsOf line = [name, t] → assembleLine p line =
          (numberOf t.toList).bind fun n => assemble p .SETRATE (.number n)) ∧
        (wordsOf line = [name] → assembleLine p line = none) ∧
        ∀ t u ts, wordsOf line = name :: t :: u :: ts → assembleLine p line = none) ∧
    ((∀ n, assemble p .SETBWM (.number n) =
        if n < 256 then some (.setbwm (BitVec.ofNat 8 n)) else none) ∧
      assemble p .SETBWM (.modeName .low) = some (.setbwm (p.bmLow.setWidth 8)) ∧
      assemble p .SETBWM (.modeName .medLow) = some (.setbwm (p.bmMedLow.setWidth 8)) ∧
      assemble p .SETBWM (.modeName .medHigh) = some (.setbwm (p.bmMedHigh.setWidth 8)) ∧
      assemble p .SETBWM (.modeName .high) = some (.setbwm (p.bmHigh.setWidth 8)) ∧
      assemble p .SETBWM .absent = none ∧ (∀ b, assemble p .SETBWM (.truth b) = none) ∧
      ∀ (line name : String), mnemonicOf name = some .SETBWM →
        (∀ t, wordsOf line = [name, t] → assembleLine p line =
          if t = "LOW" then assemble p .SETBWM (.modeName .low)
          else if t = "MED_LOW" then assemble p .SETBWM (.modeName .medLow)
          else if t = "MED_HIGH" then assemble p .SETBWM (.modeName .medHigh)
          else if t = "HIGH" then assemble p .SETBWM (.modeName .high)
          else (numberOf t.toList).bind fun n => assemble p .SETBWM (.number n)) ∧
        (wordsOf line = [name] → assembleLine p line = none) ∧
        ∀ t u ts, wordsOf line = name :: t :: u :: ts → assembleLine p line = none) ∧
    ∀ line : String, (wordsOf line = [] → assembleLine p line = none) ∧
      ∀ name ts, wordsOf line = name :: ts → mnemonicOf name = none → assembleLine p line = none

/-! ### The step -/

/-- 30_encoding R86, 10_state R22: a step runs the oldest command, after the other master's move
between two operations (70_reset_and_hazards R176). -/
def Obligations.StepRunsTheDecodedOperation : Prop :=
  ∀ (s : State) (w : Cmd) (rest : List Cmd) (i : Instr),
    s.commands = w :: rest → decode w = .op i →
    step s = exec i (s.interleave.setCommands rest)

/-- 30_encoding R83: a reserved opcode does nothing and is answered `ill`; the response format and
the reserved opcodes are the spec's decisions D14 and D17. -/
def Obligations.ReservedOpcodeIsAnsweredIll : Prop :=
  ∀ (s : State) (w : Cmd) (rest : List Cmd),
    s.commands = w :: rest →
    ((w.extractLsb' 16 8).toNat = 0 ∨ 0x10 ≤ (w.extractLsb' 16 8).toNat) →
    step s = .next ((s.interleave.setCommands rest).answer ⟨true, false, 0⟩)

/-- 60_exceptions R153: with no command waiting, nothing happens in the block; the other master may
still move (R176). -/
def Obligations.WaitingBlockDoesNothing : Prop :=
  ∀ s : State, s.commands = [] →
    step s = .next s.interleave ∧ (s.ExclusiveBus → step s = .next s)

/-- 70_reset_and_hazards R176: the other master may put any byte into `CTRL1`, changes nothing else
of the block, and never moves under `EXCLUSIVE_BUS`. -/
def Obligations.OtherMasterReplacesCtrl1Only : Prop :=
  (∀ s : State, SameElsewhere s s.interleave ∧ s.interleave.responses = s.responses) ∧
  (∀ s : State, s.ExclusiveBus → s.interleave = s) ∧
  (∀ (s : State) (b : Byte), ¬ s.ExclusiveBus →
    ∃ e, (s.setEnv e).interleave.ctrl1 = b) ∧
  (∀ s : State, ¬ s.ExclusiveBus →
    s.interleave.ctrl1 = s.ctrl1 ∨ s.env.nextOther = some s.interleave.ctrl1)

/-! ### Reset -/

/-- 10_state R39, 70_reset_and_hazards R170 and R171: what reset binds, for both straps. The strap
`addr` has `DADDR_W` bits (R171), and a number beyond them is cut to them (log entry 3). The queue of
commands and the list of responses are the model's (log entries 6 and 7). -/
def Obligations.ResetBindsTheDeviceAddress : Prop :=
  ∀ (p : Params) (addr : DevAddr),
    (State.resetWith p true addr).devaddr = p.defaultAddress ∧
    (addr < 2 ^ p.daddrW → (State.resetWith p false addr).devaddr = addr) ∧
    (State.resetWith p false addr).devaddr < 2 ^ p.daddrW ∧
    ∀ useDefault, (State.resetWith p useDefault addr).ident = 0xD3 ∧
      (State.resetWith p useDefault addr).ctrl1 = p.ctrl1Reset ∧
      (State.resetWith p useDefault addr).cfg = p ∧
      (State.resetWith p useDefault addr).commands = [] ∧
      (State.resetWith p useDefault addr).responses = []

/-- The invariant holds after reset, at the spec's defaults and at every instantiation that meets
00_scope R8 (10_state R26 and R40). That `State.reset` is bound to the CSR file is no rule: it rests on
the strap the model takes for it (log entry 5) and on `SELF_ADDR` being `DEFAULT_ADDRESS` by default
(the spec's decision D32, log entry 2), which are what `BOUND` needs (R171, R184). -/
def Obligations.ResetMeetsTheInvariant : Prop :=
  State.reset.Inv ∧ State.reset.Bound ∧
  ∀ (p : Params) (useDefault : Bool) (addr : DevAddr), p.wf = true →
    (State.resetWith p useDefault addr).Inv

/-- 30_encoding R90, 10_state R22: a program is a binding and the words of its commands, in order. -/
def Obligations.ProgramStartsBoundWithItsCommands : Prop :=
  ∀ (p : Params) (is : List Instr) (a : DevAddr),
    (startProgram p .useDefault is).devaddr = p.defaultAddress ∧
    (a < 2 ^ p.daddrW → (startProgram p (.address a) is).devaddr = a) ∧
    ∀ b, (startProgram p b is).ident = 0xD3 ∧ (startProgram p b is).ctrl1 = p.ctrl1Reset ∧
      (startProgram p b is).responses = [] ∧
      (startProgram p b is).commands.map decode = is.map Decoded.op

/-! ### Whole-machine rules -/

/-- 10_state R24 and R26, 60_exceptions R154, 30_encoding R83: `IDENT` holds its constant, `DEVADDR`
keeps to `DADDR_W` bits, the parameters meet R8, and a response that says `ill` says nothing else, in
every state a step leads to. -/
def Obligations.StepKeepsTheInvariant : Prop :=
  ∀ s t : State, s.Inv → step s = .next t → t.Inv

/-- 10_state R24 and R26: no step changes `DEVADDR`, `IDENT` or the parameters; the oldest command,
and no other, is consumed. -/
def Obligations.StepKeepsBindingAndIdentity : Prop :=
  ∀ s t : State, step s = .next t →
    t.devaddr = s.devaddr ∧ t.ident = s.ident ∧ t.cfg = s.cfg ∧ t.commands = s.commands.tail

/-- 60_exceptions R150, 30_encoding R85: from every legal state a step goes on, and a step with a
command waiting gives exactly one response, whose two bits exclude each other (R154). That there is a
step with no command waiting, and that it gives no response, is the model's (log entry 24). -/
def Obligations.EveryCommandGetsOneResponse : Prop :=
  ∀ s : State, s.Legal → ∃ t, step s = .next t ∧
    (s.commands = [] → t.responses = s.responses) ∧
    (s.commands ≠ [] → ∃ r : Response, t.responses = s.responses ++ [r] ∧
      ¬(r.ill = true ∧ r.xfail = true))

/-- 60_exceptions R150 and R156, 10_state R23: every operation runs to its response, for every
operand and every state, and there is no fault to raise; the response's bits are not stored and
divert nothing, so an operation does the same whatever was answered before. -/
def Obligations.EveryOperationRunsToItsResponse : Prop :=
  (∀ _f : Fault, False) ∧
  ∀ (i : Instr) (s : State), s.cfg.wf = true →
    ∃ t r, exec i s = .next t ∧ r.ill = false ∧ t.responses = s.responses ++ [r] ∧
      ∀ earlier, exec i (s.setResponses earlier) = .next (t.setResponses (earlier ++ [r]))

/-- The frame of every operation (10_state R34, 43_power_axis R144, 20_memory R61): the parameters,
`DEVADDR`, `IDENT` and the commands stay; with no other master a getter leaves `CTRL1` and a setter
of a field the five other fields, failed or not. -/
def Obligations.FrameOfEveryOperation : Prop :=
  ∀ (i : Instr) (s t : State), s.cfg.wf = true → exec i s = .next t →
    SameElsewhere s t ∧
    (s.ExclusiveBus → setterOf s.cfg i = none → t.ctrl1 = s.ctrl1) ∧
    (s.ExclusiveBus → ∀ f v, setterOf s.cfg i = some (f, v) → ∀ g, g ≠ f → t.field g = s.field g)

/-- 30_encoding R85: every operation answers a result of its type, whatever the transport
delivers. -/
def Obligations.ResultsHaveTheirType : Prop :=
  ∀ (i : Instr) (s t : State), s.cfg.wf = true → exec i s = .next t →
    ∃ r, t.responses = s.responses ++ [r] ∧ legalResult i r.result

/-- 30_encoding R86, 20_memory R53, 70_reset_and_hazards R182: the number of transport outcomes an
operation consumes is the number of primitives the rules give it, whatever they report. That a
primitive takes exactly one outcome of the environment, also at a wrong device address, is the model's
(log entries 8 and 16). -/
def Obligations.EachPrimitiveTakesOneOutcome : Prop :=
  ∀ (i : Instr) (s t : State), s.cfg.wf = true → exec i s = .next t →
    primitiveCount i ≤ s.env.outcomes.length →
    t.env.outcomes = s.env.outcomes.drop (primitiveCount i)

/-- 20_memory R51, 95_test_vectors P4: bound to another device, every operation reports failure and
nothing reaches the CSR file. -/
def Obligations.WrongBindingReachesNothing : Prop :=
  ∀ (i : Instr) (s : State), s.cfg.wf = true → ¬ s.Bound → s.ExclusiveBus →
    ∃ t r, exec i s = .next t ∧ t.responses = s.responses ++ [r] ∧ r.xfail = true ∧
      t.ctrl1 = s.ctrl1 ∧ SameElsewhere s t

/-- 30_encoding R85 (D15): `rsp[33:0] = {ill, xfail, result}`. -/
def Obligations.ResponseIsPackedInOneWord : Prop :=
  ∀ r : Response, (packResponse r).getLsbD 33 = r.ill ∧ (packResponse r).getLsbD 32 = r.xfail ∧
    (packResponse r).extractLsb' 0 32 = r.result

/-! ### Transport primitives -/

/-- 20_memory R56: `TReadByte` at a register of the map. -/
def Obligations.ReadByteDeliversTheRegister : Prop :=
  ∀ (a : DevAddr) (r : RegAddr) (reg : Reg) (s : State), regAt s.cfg r = some reg →
    ∃ x, tReadByte a r s = .ok x ∧
      x.ok = (decide (a = s.cfg.selfAddr) && !s.outcome.fails) ∧
      (x.ok = true → x.value = readReg s reg) ∧
      (x.ok = false → x.value = s.outcome.junk) ∧
      SameElsewhere s x.state ∧ x.state.ctrl1 = s.ctrl1 ∧ x.state.responses = s.responses

/-- 20_memory R57: `TReadBits`; `startBit` is the high end of the field (D8), a failed read is not
masked (R60, D11). A range that is none of the six fields' stops (R54, U18), as
`PrimitiveOutsideTheMapIsRefused` says. -/
def Obligations.ReadBitsDeliversTheField : Prop :=
  ∀ (a : DevAddr) (r : RegAddr) (reg : Reg) (f : Field) (hi len : Nat) (s : State),
    s.cfg.wf = true → regAt s.cfg r = some reg → hi = fieldHi s.cfg f → len = fieldLen f →
    ∃ x, tReadBits a r hi len s = .ok x ∧
      x.ok = (decide (a = s.cfg.selfAddr) && !s.outcome.fails) ∧
      (x.ok = true → ∀ i, x.value.getLsbD i =
        (decide (i < len) && (readReg s reg).getLsbD (hi + 1 - len + i))) ∧
      (x.ok = false → x.value = s.outcome.junk) ∧
      SameElsewhere s x.state ∧ x.state.ctrl1 = s.ctrl1 ∧ x.state.responses = s.responses

/-- 20_memory R58: `TWriteBit` at a one-bit field of `CTRL1` that succeeds; any non-zero value sets
the bit (D10). -/
def Obligations.WriteBitChangesOneBit : Prop :=
  ∀ (f : Field) (bit : Nat) (v : Byte) (s : State), s.cfg.wf = true →
    fieldLen f = 1 → bit = fieldHi s.cfg f → s.outcome.fails = false →
    ∃ x, tWriteBit s.cfg.selfAddr s.cfg.aCtrl1 bit v s = .ok x ∧ x.ok = true ∧
      SameElsewhere s x.state ∧ x.state.responses = s.responses ∧
      ∀ i, i < 8 → x.state.ctrl1.getLsbD i =
        if i = bit then decide (v ≠ 0) else s.ctrl1.getLsbD i

/-- 20_memory R59: `TWriteBits` at a field of `CTRL1` that succeeds; bits of the value above the field
are discarded (D9). -/
def Obligations.WriteBitsChangesItsRange : Prop :=
  ∀ (f : Field) (hi len : Nat) (v : Byte) (s : State), s.cfg.wf = true →
    hi = fieldHi s.cfg f → len = fieldLen f → s.outcome.fails = false →
    ∃ x, tWriteBits s.cfg.selfAddr s.cfg.aCtrl1 hi len v s = .ok x ∧ x.ok = true ∧
      SameElsewhere s x.state ∧ x.state.responses = s.responses ∧
      ∀ i, i < 8 → x.state.ctrl1.getLsbD i =
        if hi + 1 - len ≤ i ∧ i ≤ hi then v.getLsbD (i - (hi + 1 - len)) else s.ctrl1.getLsbD i

/-- 20_memory R61 (D12): a failed write leaves the register as it is then, or as the write would have
left it, and nothing else changes. -/
def Obligations.FailedWriteLeavesOldOrNew : Prop :=
  ∀ (f : Field) (hi len : Nat) (v : Byte) (s : State), s.cfg.wf = true →
    hi = fieldHi s.cfg f → len = fieldLen f → s.outcome.fails = true →
    ∃ x, tWriteBits s.cfg.selfAddr s.cfg.aCtrl1 hi len v s = .ok x ∧ x.ok = false ∧
      SameElsewhere s x.state ∧ x.state.responses = s.responses ∧
      (x.state.ctrl1 = s.afterPrimitive.interleave.ctrl1 ∨
        ∀ i, i < 8 → x.state.ctrl1.getLsbD i =
          if hi + 1 - len ≤ i ∧ i ≤ hi then v.getLsbD (i - (hi + 1 - len))
          else s.ctrl1.getLsbD i)

/-- 20_memory R54 and R55 (D28, U18): a primitive at a register address outside the map, with a range
outside a register, or with a range of the CSR file that is none of the six fields', has no meaning,
and is refused by name. `TWriteBits` and `TWriteBit` at `IDENT` are the exception, for which
`WriteToIdentIsDiscarded` holds. The three refusals and their order are the model's (log entry
14). -/
def Obligations.PrimitiveOutsideTheMapIsRefused : Prop :=
  ∀ (r : RegAddr) (hi len bit : Nat) (v : Byte) (s : State),
    (r ≠ s.cfg.aIdent → r ≠ s.cfg.aCtrl1 →
      tReadByte s.cfg.selfAddr r s = .error (.unmappedRegister r) ∧
      (1 ≤ len → len ≤ hi + 1 → hi ≤ 7 →
        tReadBits s.cfg.selfAddr r hi len s = .error (.unmappedRegister r) ∧
        tWriteBits s.cfg.selfAddr r hi len v s = .error (.unmappedRegister r)) ∧
      (bit ≤ 7 → tWriteBit s.cfg.selfAddr r bit v s = .error (.unmappedRegister r))) ∧
    (∀ a, len = 0 ∨ hi + 1 < len ∨ 7 < hi →
      tReadBits a r hi len s = .error (.rangeOutsideRegister hi len) ∧
      tWriteBits a r hi len v s = .error (.rangeOutsideRegister hi len)) ∧
    (∀ a, 7 < bit → tWriteBit a r bit v s = .error (.rangeOutsideRegister bit 1)) ∧
    (s.cfg.wf = true → 1 ≤ len → len ≤ hi + 1 → hi ≤ 7 →
      (∀ f, ¬(fieldHi s.cfg f = hi ∧ fieldLen f = len)) →
      tReadBits s.cfg.selfAddr s.cfg.aCtrl1 hi len s = .error (.rangeOtherThanField hi len) ∧
      tReadBits s.cfg.selfAddr s.cfg.aIdent hi len s = .error (.rangeOtherThanField hi len) ∧
      tWriteBits s.cfg.selfAddr s.cfg.aCtrl1 hi len v s =
        .error (.rangeOtherThanField hi len)) ∧
    (s.cfg.wf = true → bit ≤ 7 → (∀ f, fieldLen f = 1 → fieldHi s.cfg f ≠ bit) →
      tWriteBit s.cfg.selfAddr s.cfg.aCtrl1 bit v s = .error (.rangeOtherThanField bit 1))

/-- 10_state R26 (D23): a write addressed to `IDENT`, with either write primitive and any range inside
the register, changes nothing; it completes, and `CTRL1` is changed by nobody but the other master. -/
def Obligations.WriteToIdentIsDiscarded : Prop :=
  ∀ (hi len bit : Nat) (v : Byte) (s : State),
    (1 ≤ len → len ≤ hi + 1 → hi ≤ 7 →
      ∃ x, tWriteBits s.cfg.selfAddr s.cfg.aIdent hi len v s = .ok x ∧
        x.ok = !s.outcome.fails ∧ SameElsewhere s x.state ∧ x.state.responses = s.responses ∧
        (s.ExclusiveBus → x.state.ctrl1 = s.ctrl1)) ∧
    (bit ≤ 7 →
      ∃ x, tWriteBit s.cfg.selfAddr s.cfg.aIdent bit v s = .ok x ∧
        x.ok = !s.outcome.fails ∧ SameElsewhere s x.state ∧ x.state.responses = s.responses ∧
        (s.ExclusiveBus → x.state.ctrl1 = s.ctrl1))

/-! ### Codecs -/

/-- 41_rate R111. -/
def Obligations.RateEncoderIsExactWithFallback : Prop :=
  ∀ p : Params, encRate p 100 = p.rc100 ∧ encRate p 200 = p.rc200 ∧ encRate p 400 = p.rc400 ∧
    encRate p 800 = p.rc800 ∧
    ∀ r : RateHz, r ≠ 100 → r ≠ 200 → r ≠ 400 → encRate p r = p.rc800

/-- 41_rate R112 and 42_bandwidth R124: the decoder and the row it selects. -/
def Obligations.RateDecoderIsTotal : Prop :=
  ∀ p : Params, p.wf = true →
    decRate p (p.rc100.setWidth 8) = 100 ∧ decRate p (p.rc200.setWidth 8) = 200 ∧
    decRate p (p.rc400.setWidth 8) = 400 ∧
    (∀ v : Byte, v ≠ p.rc100.setWidth 8 → v ≠ p.rc200.setWidth 8 → v ≠ p.rc400.setWidth 8 →
      decRate p v = 800 ∧ rowOf p v = .hz800) ∧
    ∀ v : Byte, decRate p v ∈ [100, 200, 400, 800] ∧
      (rowOf p v = .hz100 ↔ decRate p v = 100) ∧ (rowOf p v = .hz200 ↔ decRate p v = 200) ∧
      (rowOf p v = .hz400 ↔ decRate p v = 400) ∧ (rowOf p v = .hz800 ↔ decRate p v = 800)

/-- 42_bandwidth R125. -/
def Obligations.ColumnSelectionIsTotal : Prop :=
  ∀ p : Params, p.wf = true →
    colOf p (p.bmLow.setWidth 8) = .low ∧ colOf p (p.bmMedLow.setWidth 8) = .medLow ∧
    colOf p (p.bmMedHigh.setWidth 8) = .medHigh ∧ colOf p (p.bmHigh.setWidth 8) = .high ∧
    ∀ v : Byte, v ≠ p.bmLow.setWidth 8 → v ≠ p.bmMedLow.setWidth 8 → v ≠ p.bmMedHigh.setWidth 8 →
      colOf p v = .high

/-- 42_bandwidth R127: the sixteen entries, in half-hertz. -/
def Obligations.CutoffTableIsTheSourcesTable : Prop :=
  halfHertz (cutoffTable .hz100 .low) = 25 ∧ halfHertz (cutoffTable .hz100 .medLow) = 25 ∧
  halfHertz (cutoffTable .hz100 .medHigh) = 50 ∧ halfHertz (cutoffTable .hz100 .high) = 50 ∧
  halfHertz (cutoffTable .hz200 .low) = 25 ∧ halfHertz (cutoffTable .hz200 .medLow) = 50 ∧
  halfHertz (cutoffTable .hz200 .medHigh) = 100 ∧ halfHertz (cutoffTable .hz200 .high) = 140 ∧
  halfHertz (cutoffTable .hz400 .low) = 40 ∧ halfHertz (cutoffTable .hz400 .medLow) = 50 ∧
  halfHertz (cutoffTable .hz400 .medHigh) = 100 ∧ halfHertz (cutoffTable .hz400 .high) = 220 ∧
  halfHertz (cutoffTable .hz800 .low) = 60 ∧ halfHertz (cutoffTable .hz800 .medLow) = 70 ∧
  halfHertz (cutoffTable .hz800 .medHigh) = 100 ∧ halfHertz (cutoffTable .hz800 .high) = 220

/-- 42_bandwidth R129 (D19): the pattern is the cutoff's value exactly: positive, with biased
exponent `e` and fraction `m`, `(2^23 + m) * 2^(e - 150)` is half its count of half-hertz. -/
def Obligations.CutoffPatternIsExact : Prop :=
  ∀ c : Cutoff, (binary32 c).getLsbD 31 = false ∧
    ∃ e : Nat, e = ((binary32 c).extractLsb' 23 8).toNat ∧ 127 ≤ e ∧ e < 150 ∧
      2 * (2 ^ 23 + ((binary32 c).extractLsb' 0 23).toNat) = halfHertz c * 2 ^ (150 - e)

/-- 42_bandwidth R126 and R130(d): the lookup never fails, and two unknown codes give 110 Hz. -/
def Obligations.UnknownCodesFallBackToTheCorner : Prop :=
  ∀ (p : Params) (r m : Byte),
    (r ≠ p.rc100.setWidth 8 → r ≠ p.rc200.setWidth 8 → r ≠ p.rc400.setWidth 8 →
      cutoff p r m = cutoffTable .hz800 (colOf p m)) ∧
    (m ≠ p.bmLow.setWidth 8 → m ≠ p.bmMedLow.setWidth 8 → m ≠ p.bmMedHigh.setWidth 8 →
      cutoff p r m = cutoffTable (rowOf p r) .high) ∧
    (r ≠ p.rc100.setWidth 8 → r ≠ p.rc200.setWidth 8 → r ≠ p.rc400.setWidth 8 →
      m ≠ p.bmLow.setWidth 8 → m ≠ p.bmMedLow.setWidth 8 → m ≠ p.bmMedHigh.setWidth 8 →
      halfHertz (cutoff p r m) = 220)

/-! ### The operations: encoding, result, effect and frame, under every environment -/

/-- 40_lifecycle_identity R100. What a failed write leaves is R61 (D12), that nothing is reached at a
wrong address R51 (D32). That a failed write leaves the other master's move, and that a write at a wrong
address gives it no moment to move, is log entry 9. -/
def Obligations.InitSetsThePowerFlag : Prop :=
  (∀ arg : BitVec 16, decode (commandWord 0x01 arg) = .op .init) ∧
  ∀ s : State, s.cfg.wf = true → ∃ t, exec .init s = .next t ∧ SetsField .pwr 1 s t

/-- 40_lifecycle_identity R102. -/
def Obligations.TestconnComparesTheIdentity : Prop :=
  (∀ arg : BitVec 16, decode (commandWord 0x02 arg) = .op .testconn) ∧
  ∀ s : State,
    exec .testconn s = .next (s.afterPrimitive.answer
      ⟨false, s.primFails, if s.delivered s.ident = 0xD3 then 1 else 0⟩) ∧
    (s.IdealTransport → s.ident = 0xD3 →
      exec .testconn s = .next (s.afterPrimitive.answer ⟨false, false, 1⟩))

/-- 41_rate R113: the operand is the low `RATE_W` bits of `arg` (R7, R81), all of `arg` at the default
16. What a failed write leaves is R61 (D12), that nothing is reached at a wrong address R51 (D32), and
where the other master moves log entry 9. How a narrower `RATE_W` cuts `arg` is log entry 3. -/
def Obligations.SetrateWritesTheRateField : Prop :=
  (∀ r : RateHz, decode (commandWord 0x03 r) = .op (.setrate r)) ∧
  (∀ (p : Params) (r : RateHz), (rateArg p r).toNat = r.toNat % 2 ^ p.rateW ∧
    (p.rateW = 16 → rateArg p r = r)) ∧
  ∀ (r : RateHz) (s : State), s.cfg.wf = true →
    ∃ t, exec (.setrate r) s = .next t ∧
      SetsField .rate ((encRate s.cfg (rateArg s.cfg r)).setWidth 8) s t

/-- 41_rate R114. -/
def Obligations.GetrateDecodesTheRateField : Prop :=
  (∀ arg : BitVec 16, decode (commandWord 0x04 arg) = .op .getrate) ∧
  ∀ s : State, s.cfg.wf = true →
    exec .getrate s = .next (s.afterPrimitive.answer
      ⟨false, s.primFails, (decRate s.cfg (s.delivered (s.field .rate))).setWidth 32⟩) ∧
    (decRate s.cfg (s.delivered (s.field .rate))).setWidth 32 ∈ legalRates

/-- 42_bandwidth R121. That the operand's two low bits are what is stored is the spec's decision D9
(R59, R123), what a failed write leaves R61 (D12), that nothing is reached at a wrong address R51
(D32), and where the other master moves log entry 9. -/
def Obligations.SetbwmWritesTheModeField : Prop :=
  (∀ ignored mode : Byte, decode (commandWord 0x05 (ignored ++ mode)) = .op (.setbwm mode)) ∧
  ∀ (mode : Byte) (s : State), s.cfg.wf = true →
    ∃ t, exec (.setbwm mode) s = .next t ∧ SetsField .bw (mode &&& 3) s t

/-- 42_bandwidth R122. -/
def Obligations.GetbwmReturnsTheModeField : Prop :=
  (∀ arg : BitVec 16, decode (commandWord 0x06 arg) = .op .getbwm) ∧
  ∀ s : State, s.cfg.wf = true →
    exec .getbwm s = .next (s.afterPrimitive.answer
      ⟨false, s.primFails, (s.delivered (s.field .bw)).setWidth 32⟩) ∧
    (s.field .bw).toNat ≤ 3

/-- 42_bandwidth R128 (the order of the two reads is the spec's decision D20): each of the two reads
meets its own failure, and the other master may act between them. -/
def Obligations.GetbwcLooksUpTheCutoff : Prop :=
  (∀ arg : BitVec 16, decode (commandWord 0x07 arg) = .op .getbwc) ∧
  ∀ s : State, s.cfg.wf = true →
    ∃ u, u = s.afterPrimitive.interleave ∧
      exec .getbwc s = .next (u.afterPrimitive.answer
        ⟨false, s.primFails || u.primFails,
          binary32 (cutoffTable (rowOf s.cfg (s.delivered (s.field .rate)))
            (colOf s.cfg (u.delivered (u.field .bw))))⟩)

/-- 43_power_axis R135, R137, R139, R141: the four one-bit setters. What a failed write leaves is R61
(D12), that nothing is reached at a wrong address R51 (D32), and where the other master moves log entry
9. -/
def Obligations.FlagSettersWriteTheirBit : Prop :=
  (∀ arg : BitVec 16,
    decode (commandWord 0x08 arg) = .op (.setpwr (decide (arg ≠ 0))) ∧
    decode (commandWord 0x0A arg) = .op (.setxen (decide (arg ≠ 0))) ∧
    decode (commandWord 0x0C arg) = .op (.setyen (decide (arg ≠ 0))) ∧
    decode (commandWord 0x0E arg) = .op (.setzen (decide (arg ≠ 0)))) ∧
  ∀ (b : Bool) (s : State), s.cfg.wf = true →
    (∃ t, exec (.setpwr b) s = .next t ∧ SetsField .pwr (if b then 1 else 0) s t) ∧
    (∃ t, exec (.setxen b) s = .next t ∧ SetsField .xen (if b then 1 else 0) s t) ∧
    (∃ t, exec (.setyen b) s = .next t ∧ SetsField .yen (if b then 1 else 0) s t) ∧
    (∃ t, exec (.setzen b) s = .next t ∧ SetsField .zen (if b then 1 else 0) s t)

/-- 43_power_axis R136, R138, R140, R142: the four one-bit getters. That any non-zero delivered value
answers 1 is the spec's decision D10 (R143); a working transport delivers 0 or 1. -/
def Obligations.FlagGettersReadTheirBit : Prop :=
  (∀ arg : BitVec 16,
    decode (commandWord 0x09 arg) = .op .getpwr ∧ decode (commandWord 0x0B arg) = .op .getxen ∧
    decode (commandWord 0x0D arg) = .op .getyen ∧ decode (commandWord 0x0F arg) = .op .getzen) ∧
  ∀ s : State, s.cfg.wf = true →
    exec .getpwr s = .next (s.afterPrimitive.answer
      ⟨false, s.primFails, if s.delivered (s.field .pwr) = 0 then 0 else 1⟩) ∧
    exec .getxen s = .next (s.afterPrimitive.answer
      ⟨false, s.primFails, if s.delivered (s.field .xen) = 0 then 0 else 1⟩) ∧
    exec .getyen s = .next (s.afterPrimitive.answer
      ⟨false, s.primFails, if s.delivered (s.field .yen) = 0 then 0 else 1⟩) ∧
    exec .getzen s = .next (s.afterPrimitive.answer
      ⟨false, s.primFails, if s.delivered (s.field .zen) = 0 then 0 else 1⟩) ∧
    ∀ f ∈ [Field.pwr, Field.xen, Field.yen, Field.zen], s.field f = 0 ∨ s.field f = 1

/-- 40_lifecycle_identity R101: a word of `INIT` and a word of `SETPWR` with a true operand make the
same step. -/
def Obligations.InitEqualsSetpwrTrue : Prop :=
  ∀ (s : State) (rest : List Cmd) (ignored arg : BitVec 16), arg ≠ 0 →
    step (s.setCommands (commandWord 0x01 ignored :: rest)) =
      step (s.setCommands (commandWord 0x08 arg :: rest))

/-! ### Properties across operations, under the spec's premises -/

/-- 41_rate R115: round trip, fallback equivalence, and the codec's two directions. -/
def Obligations.RateRoundTrip : Prop :=
  ∀ s : State, s.cfg.wf = true → s.IdealTransport → s.ExclusiveBus →
    (∀ r ∈ [(100 : RateHz), 200, 400, 800], ∃ t, execAll [.setrate r, .getrate] s = .next t ∧
      t.responses = s.responses ++ [⟨false, false, 0⟩, ⟨false, false, r.setWidth 32⟩]) ∧
    (∀ r : RateHz, rateArg s.cfg r ≠ 100 → rateArg s.cfg r ≠ 200 → rateArg s.cfg r ≠ 400 →
      exec (.setrate r) s = exec (.setrate 800) s ∧
      ∃ t, execAll [.setrate r, .getrate] s = .next t ∧
        t.responses = s.responses ++ [⟨false, false, 0⟩, ⟨false, false, 800⟩]) ∧
    (∀ r ∈ [(100 : RateHz), 200, 400, 800], decRate s.cfg ((encRate s.cfg r).setWidth 8) = r) ∧
    (∀ c : Code, encRate s.cfg (decRate s.cfg (c.setWidth 8)) = c)

/-- 42_bandwidth R130(a) and (c): after `SETRATE r; SETBWM m`, `GETBWC` answers the table's entry;
a rate outside the domain selects the 800 Hz row. -/
def Obligations.CutoffFollowsRateAndMode : Prop :=
  ∀ s : State, s.cfg.wf = true → s.IdealTransport → s.ExclusiveBus →
    (∀ (row : Row) (col : Column), ∃ t,
      execAll [.setrate (rowHz row), .setbwm ((columnCode s.cfg col).setWidth 8), .getbwc] s =
        .next t ∧
      t.responses = s.responses ++ [⟨false, false, 0⟩, ⟨false, false, 0⟩,
        ⟨false, false, binary32 (cutoffTable row col)⟩]) ∧
    (∀ (r : RateHz) (col : Column), rateArg s.cfg r ≠ 100 → rateArg s.cfg r ≠ 200 →
      rateArg s.cfg r ≠ 400 → ∃ t,
      execAll [.setrate r, .setbwm ((columnCode s.cfg col).setWidth 8), .getbwc] s = .next t ∧
      t.responses = s.responses ++ [⟨false, false, 0⟩, ⟨false, false, 0⟩,
        ⟨false, false, binary32 (cutoffTable .hz800 col)⟩])

/-- 43_power_axis R144: field isolation, for every setter; every other operation leaves `CTRL1`. -/
def Obligations.FieldsAreIsolated : Prop :=
  ∀ (i : Instr) (s : State), s.cfg.wf = true → s.IdealTransport → s.ExclusiveBus →
    ∃ t, exec i s = .next t ∧
      (∀ f v, setterOf s.cfg i = some (f, v) →
        t.field f = v ∧ ∀ g, g ≠ f → t.field g = s.field g) ∧
      (setterOf s.cfg i = none → t.ctrl1 = s.ctrl1)

/-- 70_reset_and_hazards R174: operations that write every field, in any order, leave a `CTRL1` that
does not depend on what it was. -/
def Obligations.WritingEveryFieldDeterminesCtrl1 : Prop :=
  ∀ (is : List Instr) (s : State) (b : Byte),
    s.cfg.wf = true → s.IdealTransport → s.ExclusiveBus →
    (∀ f, ∃ i ∈ is, ∃ v, setterOf s.cfg i = some (f, v)) →
    ∃ t u, execAll is s = .next t ∧ execAll is (s.setCtrl1 b) = .next u ∧ t.ctrl1 = u.ctrl1

/-- 70_reset_and_hazards R181: setters of different fields commute. -/
def Obligations.SettersOfDifferentFieldsCommute : Prop :=
  ∀ (i j : Instr) (f g : Field) (v w : Byte) (s : State),
    s.cfg.wf = true → s.IdealTransport → s.ExclusiveBus →
    setterOf s.cfg i = some (f, v) → setterOf s.cfg j = some (g, w) → f ≠ g →
    ∃ t u, execAll [i, j] s = .next t ∧ execAll [j, i] s = .next u ∧ t.ctrl1 = u.ctrl1

/-- 20_memory R63: a setter given twice leaves `CTRL1` as once, and a getter given twice answers the
same. -/
def Obligations.RepeatingAnOperationChangesNothing : Prop :=
  ∀ (i : Instr) (s : State), s.cfg.wf = true → s.IdealTransport → s.ExclusiveBus →
    ∃ t u r, exec i s = .next t ∧ exec i t = .next u ∧ u.ctrl1 = t.ctrl1 ∧
      u.responses = s.responses ++ [r, r]

/-- 10_state R35: every value of `CTRL1` is reachable from every other by operations. -/
def Obligations.EveryCtrl1ValueIsReachable : Prop :=
  ∀ (s : State) (b : Byte), s.cfg.wf = true → s.IdealTransport → s.ExclusiveBus →
    ∃ is t, execAll is s = .next t ∧ t.ctrl1 = b

/-- 70_reset_and_hazards R177: a setter whose write succeeds leaves the `CTRL1` it would have left
had the other master not moved between its read and its write. -/
def Obligations.OtherMastersUpdateIsLost : Prop :=
  ∀ (i : Instr) (f : Field) (v : Byte) (s : State), s.cfg.wf = true →
    setterOf s.cfg i = some (f, v) → s.primFails = false →
    ∃ t u, exec i s = .next t ∧
      exec i { s with cfg := { s.cfg with exclusiveBus := true } } = .next u ∧
      t.ctrl1 = u.ctrl1

/-- 70_reset_and_hazards R178: with a write of the other master between its two reads, `GETBWC`
answers the old rate's row and the new mode's column. -/
def Obligations.CutoffOfATornPair : Prop :=
  ∀ (s : State) (b : Byte), s.cfg.wf = true → s.IdealTransport → ¬ s.ExclusiveBus →
    s.afterPrimitive.env.nextOther = some b →
    ∃ t, exec .getbwc s = .next t ∧ t.ctrl1 = b ∧
      t.responses = s.responses ++ [⟨false, false,
        binary32 (cutoffTable (rowOf s.cfg (s.field .rate))
          (colOf s.cfg ((s.setCtrl1 b).field .bw)))⟩]

/-- 60_exceptions R165, 10_state R34, by the spec's decisions D23 and D27, a blind spot it names (log
entry 18): in two states that differ in the power flag alone, every operation but `GETPWR` answers the
same, and every operation leaves the five other fields the same. -/
def Obligations.PowerFlagGatesNothing : Prop :=
  ∀ (i : Instr) (s : State) (b : Byte), s.cfg.wf = true →
    (∀ g, g ≠ Field.pwr → (s.setCtrl1 b).field g = s.field g) →
    ∃ t u, exec i s = .next t ∧ exec i (s.setCtrl1 b) = .next u ∧
      (i ≠ .getpwr → u.responses = t.responses) ∧
      ∀ g, g ≠ Field.pwr → u.field g = t.field g

/-! ### The text of programs -/

/-- 30_encoding R82 and R89: the names a mnemonic is written by, its own and the source's method name,
and no others. That an alias has no parentheses is log entry 25. -/
def Obligations.MnemonicsAreReadByTheirTwoNames : Prop :=
  ∀ (m : Mnemonic) (name : String), mnemonicOf name = some m ↔
    (m, name) ∈ [(.INIT, "INIT"), (.INIT, "initialize"),
      (.TESTCONN, "TESTCONN"), (.TESTCONN, "testConnection"),
      (.SETRATE, "SETRATE"), (.SETRATE, "setDataOutputRate"),
      (.GETRATE, "GETRATE"), (.GETRATE, "getDataOutputRate"),
      (.SETBWM, "SETBWM"), (.SETBWM, "setBandwidthCutOffMode"),
      (.GETBWM, "GETBWM"), (.GETBWM, "getBandwidthCutOffMode"),
      (.GETBWC, "GETBWC"), (.GETBWC, "getBandwidthCutOff"),
      (.SETPWR, "SETPWR"), (.SETPWR, "setPowerOn"), (.GETPWR, "GETPWR"), (.GETPWR, "getPowerOn"),
      (.SETXEN, "SETXEN"), (.SETXEN, "setXEnabled"), (.GETXEN, "GETXEN"), (.GETXEN, "getXEnabled"),
      (.SETYEN, "SETYEN"), (.SETYEN, "setYEnabled"), (.GETYEN, "GETYEN"), (.GETYEN, "getYEnabled"),
      (.SETZEN, "SETZEN"), (.SETZEN, "setZEnabled"), (.GETZEN, "GETZEN"), (.GETZEN, "getZEnabled")]

/-- 30_encoding R89: numbers are unsigned, decimal or hexadecimal behind `0x`. Leading zeros and both
cases of a hexadecimal digit are log entry 25. -/
def Obligations.NumbersAreReadInBothBases : Prop :=
  (∀ (c : Char) (d : Nat), digitOf c = some d ↔ (c, d) ∈ "0123456789abcdef".toList.zip (List.range 16) ++
    "ABCDEF".toList.zip (List.range' 10 6)) ∧
  (∀ (cs : List Char) (ds : List Nat), cs ≠ [] → cs.map digitOf = ds.map some → (∀ d ∈ ds, d < 10) →
    numberOf cs = some (Nat.ofDigits 10 ds.reverse)) ∧
  (∀ (cs : List Char) (ds : List Nat), cs ≠ [] → cs.map digitOf = ds.map some →
    numberOf ('0' :: 'x' :: cs) = some (Nat.ofDigits 16 ds.reverse)) ∧
  numberOf [] = none ∧ numberOf ['0', 'x'] = none ∧
  (∀ cs : List Char, (∃ c ∈ cs, digitOf c = none) → numberOf ('0' :: 'x' :: cs) = none) ∧
  (∀ cs : List Char, (∀ rest, cs ≠ '0' :: 'x' :: rest) →
    (∃ c ∈ cs, ∀ d, digitOf c = some d → 10 ≤ d) → numberOf cs = none)

/-- 30_encoding R90, 70_reset_and_hazards R171: a program's text is a binding and then its commands;
it is loaded as the program of those, and the two forms of a binding are the only ones. That a program without a binding, or with any other line, is none
is log entry 25. -/
def Obligations.ProgramTextIsBindingAndCommands : Prop :=
  ∀ (p : Params) (head : String) (lines : List String),
    (∀ b, bindingOf p head = some b ↔
      (wordsOf head = ["BIND_DEFAULT"] ∧ b = .useDefault) ∨
      ∃ t n, wordsOf head = ["BIND", t] ∧ numberOf t.toList = some n ∧ n < 2 ^ p.daddrW ∧
        b = .address n) ∧
    (∀ b is, bindingOf p head = some b → lines.map (assembleLine p) = is.map some →
      loadProgram p (head :: lines) = some (startProgram p b is)) ∧
    (bindingOf p head = none → loadProgram p (head :: lines) = none) ∧
    ((∃ l ∈ lines, assembleLine p l = none) → loadProgram p (head :: lines) = none) ∧
    loadProgram p [] = none

/-- 30_encoding R89 gives a line as a mnemonic followed by its operand. That the words of a line are
the non-empty runs between blanks, in order, is log entry 25: blanks before a word are passed over, and
a word ends at a blank or at the end of the line. -/
def Obligations.WordsAreTheRunsBetweenBlanks : Prop :=
  wordsOf "" = [] ∧
  (∀ cs : List Char, wordsOf (String.ofList (' ' :: cs)) = wordsOf (String.ofList cs)) ∧
  (∀ w : List Char, w ≠ [] → ' ' ∉ w → wordsOf (String.ofList w) = [String.ofList w]) ∧
  (∀ w cs : List Char, w ≠ [] → ' ' ∉ w →
    wordsOf (String.ofList (w ++ ' ' :: cs)) = String.ofList w :: wordsOf (String.ofList cs)) ∧
  ∀ (line w : String), w ∈ wordsOf line → w ≠ "" ∧ ' ' ∉ w.toList
end

