-- ==== Sys2Proof/Laws/Bits.lean ====
section
/-! SUPPORT. The bits of a field read and of a byte with a field written, and where the fields of
`CTRL1` stand when the parameters meet spec/00_scope.md rule R8. -/

namespace Sys2Proof.Machine

open Sys2Proof.Config

theorem lowMask_getLsbD (len i : Nat) :
    (lowMask len).getLsbD i = (decide (i < 8) && decide (i < len)) := by
  simp [lowMask, BitVec.getLsbD_ofNat, Nat.testBit_two_pow_sub_one]

theorem fieldMask_getLsbD (hi len i : Nat) :
    (fieldMask hi len).getLsbD i =
      (decide (i < 8) && decide (lowBit hi len ≤ i) && decide (i - lowBit hi len < len)) := by
  simp only [fieldMask, BitVec.getLsbD_shiftLeft, lowMask_getLsbD]
  by_cases h1 : i < 8 <;> by_cases h2 : i < lowBit hi len <;>
    by_cases h3 : i - lowBit hi len < len <;> simp [h1, h2, h3]
  all_goals omega

/-- Bit `i` of a field read is bit `lo + i` of the byte, below the field's length (R57). -/
theorem readField_getLsbD (b : Byte) (hi len i : Nat) :
    (readField b hi len).getLsbD i = (decide (i < len) && b.getLsbD (lowBit hi len + i)) := by
  simp only [readField, BitVec.getLsbD_and, BitVec.getLsbD_ushiftRight, lowMask_getLsbD]
  by_cases h : i < 8
  · simp [h, Bool.and_comm]
  · have : b.getLsbD (lowBit hi len + i) = false := BitVec.getLsbD_of_ge _ _ (by omega)
    simp [this]

/-- A field written holds the low bits of the value; every other bit is as it was (R59). -/
theorem writeField_getLsbD (b : Byte) (hi len : Nat) (v : Byte) (i : Nat) (h : i < 8) :
    (writeField b hi len v).getLsbD i =
      if lowBit hi len ≤ i ∧ i - lowBit hi len < len then v.getLsbD (i - lowBit hi len)
      else b.getLsbD i := by
  simp only [writeField, BitVec.getLsbD_or, BitVec.getLsbD_and, BitVec.getLsbD_not,
    BitVec.getLsbD_shiftLeft, fieldMask_getLsbD]
  by_cases h2 : lowBit hi len ≤ i <;> by_cases h3 : i - lowBit hi len < len <;>
    simp [h, h2, h3]

/-- Writing one bit is writing a field of length one (R58). -/
theorem writeBitOf_eq_writeField (b : Byte) (bit : Nat) (v : Byte) :
    writeBitOf b bit v = writeField b bit 1 (if v ≠ 0 then 1 else 0) := by
  have hm : fieldMask bit 1 = 1#8 <<< bit := by simp [fieldMask, lowMask, lowBit]
  have hl : lowBit bit 1 = bit := by simp [lowBit]
  unfold writeBitOf writeField
  rw [hm, hl]
  by_cases h : v = 0
  · simp [h]
  · simp only [ne_eq, h, not_false_eq_true, if_true]
    apply BitVec.eq_of_getLsbD_eq
    intro i hi
    simp only [BitVec.getLsbD_or, BitVec.getLsbD_and, BitVec.getLsbD_not, BitVec.ofNat_eq_ofNat]
    cases b.getLsbD i <;> cases (1#8 <<< bit).getLsbD i <;> simp [hi]

/-! ### The places of the fields -/

/-- The low end of a field. -/
theorem lowBit_le_fieldHi (p : Params) (f : Field) :
    lowBit (fieldHi p f) (fieldLen f) ≤ fieldHi p f := by
  cases f <;> simp [lowBit, fieldLen]

/-- R8 in the form proofs use: eight positions inside the byte, pairwise distinct. -/
theorem Params.wf_positions {p : Params} (h : p.wf = true) :
    p.rateHi = p.rateLo + 1 ∧ p.bwHi = p.bwLo + 1 ∧ (∀ i ∈ p.positions, i < 8) ∧
      p.positions.Nodup ∧ p.aIdent ≠ p.aCtrl1 := by
  simp only [Params.wf, Params.contiguous, Params.inside, Params.disjoint, Params.addressesDiffer,
    Bool.and_eq_true, decide_eq_true_eq, List.all_eq_true] at h
  obtain ⟨⟨⟨⟨⟨⟨⟨⟨⟨h1, h2⟩, h3⟩, h4⟩, -⟩, h6⟩, -⟩, -⟩, -⟩, -⟩ := h
  exact ⟨h1, h2, h3, h4, h6⟩

theorem rangeInside_iff {hi len : Nat} :
    rangeInside hi len = true ↔ 1 ≤ len ∧ len ≤ hi + 1 ∧ hi ≤ 7 := by
  simp [rangeInside, and_assoc]

/-- The range of every field lies inside the register (R55). -/
theorem rangeInside_field {p : Params} (h : p.wf = true) (f : Field) :
    rangeInside (fieldHi p f) (fieldLen f) = true := by
  obtain ⟨h1, h2, h3, -, -⟩ := Params.wf_positions h
  simp only [Params.positions, List.mem_cons, List.not_mem_nil, or_false, forall_eq_or_imp,
    forall_eq] at h3
  rw [rangeInside_iff]
  cases f <;> simp only [fieldHi, fieldLen] <;> omega

theorem isFieldRange_iff {p : Params} {hi len : Nat} :
    isFieldRange p hi len = true ↔ ∃ f, fieldHi p f = hi ∧ fieldLen f = len := by
  simp only [isFieldRange, List.any_eq_true, Bool.and_eq_true, decide_eq_true_eq]
  exact ⟨fun ⟨f, _, h⟩ => ⟨f, h⟩, fun ⟨f, h⟩ => ⟨f, by cases f <;> simp, h⟩⟩

/-- The range of a field is one (R54). -/
@[simp] theorem isFieldRange_field (p : Params) (f : Field) :
    isFieldRange p (fieldHi p f) (fieldLen f) = true := isFieldRange_iff.mpr ⟨f, rfl, rfl⟩

/-- Where bit `i` of a field stands in `Params.positions`. -/
def bitIndex : Field → Nat → Nat
  | .rate, i => 1 - i
  | .bw, i => 3 - i
  | .pwr, _ => 4
  | .zen, _ => 5
  | .yen, _ => 6
  | .xen, _ => 7

theorem positions_bitIndex {p : Params} (h : p.wf = true) {f : Field} {i : Nat}
    (hi : i < fieldLen f) :
    p.positions[bitIndex f i]? = some (lowBit (fieldHi p f) (fieldLen f) + i) := by
  obtain ⟨h1, h2, -, -, -⟩ := Params.wf_positions h
  cases f <;> simp only [fieldLen] at hi <;> interval_cases i <;>
    simp [bitIndex, Params.positions, lowBit, fieldHi, fieldLen, h1, h2]

theorem bitIndex_lt {f : Field} {i : Nat} : bitIndex f i < 8 := by
  cases f <;> simp only [bitIndex] <;> omega

theorem bitIndex_ne {f g : Field} (hfg : g ≠ f) {i j : Nat} (hi : i < fieldLen g)
    (hj : j < fieldLen f) : bitIndex g i ≠ bitIndex f j := by
  cases f <;> cases g <;> simp only [fieldLen, bitIndex, ne_eq, not_true_eq_false] at * <;> omega

/-- A field's bit `i` stands at position `lo + i`; two fields share no position (R8, R27). -/
theorem field_disjoint {p : Params} (h : p.wf = true) {f g : Field} (hfg : g ≠ f) {i : Nat}
    (hi : i < fieldLen g) :
    ¬(lowBit (fieldHi p f) (fieldLen f) ≤ lowBit (fieldHi p g) (fieldLen g) + i ∧
      lowBit (fieldHi p g) (fieldLen g) + i - lowBit (fieldHi p f) (fieldLen f) < fieldLen f) := by
  rintro ⟨h1, h2⟩
  have hf := positions_bitIndex h h2
  rw [Nat.add_sub_cancel' h1, ← positions_bitIndex h hi] at hf
  have hlen : bitIndex f (lowBit (fieldHi p g) (fieldLen g) + i -
      lowBit (fieldHi p f) (fieldLen f)) < p.positions.length := bitIndex_lt
  exact bitIndex_ne hfg hi h2
    ((List.getElem?_inj hlen (Params.wf_positions h).2.2.2.1).mp hf).symm

/-- Every bit of the byte belongs to a field (R8, R27). -/
theorem field_covers {p : Params} (h : p.wf = true) {i : Nat} (hi : i < 8) :
    ∃ f, lowBit (fieldHi p f) (fieldLen f) ≤ i ∧ i - lowBit (fieldHi p f) (fieldLen f) < fieldLen f := by
  have hc : p.covers = true := by
    simp only [Params.wf, Bool.and_eq_true] at h; exact h.1.1.1.1.1.2
  obtain ⟨h1, h2, -, -, -⟩ := Params.wf_positions h
  simp only [Params.covers, List.all_eq_true, List.mem_range, Params.positions,
    List.contains_eq_mem, List.mem_cons, List.not_mem_nil, or_false, decide_eq_true_eq] at hc
  rcases hc i hi with e | e | e | e | e | e | e | e
  · exact ⟨.rate, by simp only [lowBit, fieldHi, fieldLen]; omega⟩
  · exact ⟨.rate, by simp only [lowBit, fieldHi, fieldLen]; omega⟩
  · exact ⟨.bw, by simp only [lowBit, fieldHi, fieldLen]; omega⟩
  · exact ⟨.bw, by simp only [lowBit, fieldHi, fieldLen]; omega⟩
  · exact ⟨.pwr, by simp only [lowBit, fieldHi, fieldLen]; omega⟩
  · exact ⟨.zen, by simp only [lowBit, fieldHi, fieldLen]; omega⟩
  · exact ⟨.yen, by simp only [lowBit, fieldHi, fieldLen]; omega⟩
  · exact ⟨.xen, by simp only [lowBit, fieldHi, fieldLen]; omega⟩

/-- The field written reads back as the low bits of the value (R59). -/
theorem readField_writeField_same {p : Params} (h : p.wf = true) (f : Field) (b v : Byte) :
    readField (writeField b (fieldHi p f) (fieldLen f) v) (fieldHi p f) (fieldLen f) =
      v &&& lowMask (fieldLen f) := by
  have hr := rangeInside_field h f
  simp only [rangeInside, Bool.and_eq_true, decide_eq_true_eq] at hr
  apply BitVec.eq_of_getLsbD_eq
  intro i hi
  rw [readField_getLsbD]
  by_cases hl : i < fieldLen f
  · have h8 : lowBit (fieldHi p f) (fieldLen f) + i < 8 := by unfold lowBit; omega
    rw [writeField_getLsbD _ _ _ _ _ h8]
    simp [lowMask_getLsbD, hl, hi]
  · simp [lowMask_getLsbD, hl]

/-- Every other field reads as before (R34, R144). -/
theorem readField_writeField_other {p : Params} (h : p.wf = true) {f g : Field} (hfg : g ≠ f)
    (b v : Byte) :
    readField (writeField b (fieldHi p f) (fieldLen f) v) (fieldHi p g) (fieldLen g) =
      readField b (fieldHi p g) (fieldLen g) := by
  have hr := rangeInside_field h g
  simp only [rangeInside, Bool.and_eq_true, decide_eq_true_eq] at hr
  apply BitVec.eq_of_getLsbD_eq
  intro i hi
  rw [readField_getLsbD, readField_getLsbD]
  by_cases hl : i < fieldLen g
  · have h8 : lowBit (fieldHi p g) (fieldLen g) + i < 8 := by unfold lowBit; omega
    rw [writeField_getLsbD _ _ _ _ _ h8, if_neg (field_disjoint h hfg hl)]
  · simp [hl]

/-- The six fields determine the byte (R8, R35). -/
theorem byte_ext_fields {p : Params} (h : p.wf = true) {a b : Byte}
    (hab : ∀ f, readField a (fieldHi p f) (fieldLen f) = readField b (fieldHi p f) (fieldLen f)) :
    a = b := by
  apply BitVec.eq_of_getLsbD_eq
  intro i hi
  obtain ⟨f, h1, h2⟩ := field_covers h hi
  have := congrArg (fun v => v.getLsbD (i - lowBit (fieldHi p f) (fieldLen f))) (hab f)
  simp only [readField_getLsbD, h2, decide_true, Bool.true_and] at this
  rwa [Nat.add_sub_cancel' h1] at this

end Sys2Proof.Machine
end

