-- ==== Sys2Proof/Laws/Decode.lean ====
section
/-! SUPPORT. The two parts of a command word, and the operands read from it (spec/30_encoding.md
rules R80 and R81). -/

namespace Sys2Proof

/-- The opcode of `{op, arg}` (R80). -/
@[simp] theorem opOf_commandWord (op : Byte) (arg : BitVec 16) : opOf (commandWord op arg) = op := by
  apply BitVec.eq_of_getLsbD_eq
  intro i hi
  simp only [opOf, commandWord, BitVec.getLsbD_extractLsb', BitVec.getLsbD_append]
  have h : ¬ 16 + i < 16 := by omega
  simp [hi, h]

/-- The operand of `{op, arg}` (R80). -/
@[simp] theorem argOf_commandWord (op : Byte) (arg : BitVec 16) :
    argOf (commandWord op arg) = arg := by
  apply BitVec.eq_of_getLsbD_eq
  intro i hi
  simp only [argOf, commandWord, BitVec.getLsbD_extractLsb', BitVec.getLsbD_append, Nat.zero_add]
  simp [hi]

/-- Every command word is its opcode and its operand (R80). -/
theorem commandWord_opOf_argOf (w : Cmd) : commandWord (opOf w) (argOf w) = w := by
  apply BitVec.eq_of_getLsbD_eq
  intro i hi
  simp only [opOf, argOf, commandWord, BitVec.getLsbD_append, BitVec.getLsbD_extractLsb']
  by_cases h : i < 16
  · simp [h]
  · have h1 : i - 16 < 8 := by omega
    simp [h, h1, Nat.add_sub_cancel' (Nat.le_of_not_lt h)]

/-- The mode operand is the low byte of `arg` (R81). -/
theorem modeOperand_append (ignored mode : Byte) : modeOperand (ignored ++ mode) = mode := by
  apply BitVec.eq_of_getLsbD_eq
  intro i hi
  simp only [modeOperand, BitVec.getLsbD_extractLsb', BitVec.getLsbD_append, Nat.zero_add]
  simp [hi]

/-- The mode operand an assembler emits reads back (R81). -/
@[simp] theorem modeOperand_setWidth (mode : Byte) : modeOperand (mode.setWidth 16) = mode := by
  apply BitVec.eq_of_getLsbD_eq
  intro i hi
  have h : i < 16 := by omega
  simp [modeOperand, hi, h, BitVec.getLsbD_eq_getElem]

/-- The boolean operand an assembler emits reads back (R81). -/
@[simp] theorem flagOperand_flagArg (b : Bool) : flagOperand (flagArg b) = b := by
  cases b <;> decide

end Sys2Proof
end

