-- ==== Sys2Proof/Laws/State.lean ====
section
/-! SUPPORT. What each update of the state does to each field, so that no proof unfolds a record
update. -/

namespace Sys2Proof.Machine

open Sys2Proof.Config

variable (s : State)

/-! ### `State.setCtrl1` -/

@[simp] theorem State.setCtrl1_cfg (b : Byte) : (s.setCtrl1 b).cfg = s.cfg := rfl
@[simp] theorem State.setCtrl1_devaddr (b : Byte) : (s.setCtrl1 b).devaddr = s.devaddr := rfl
@[simp] theorem State.setCtrl1_ident (b : Byte) : (s.setCtrl1 b).ident = s.ident := rfl
@[simp] theorem State.setCtrl1_ctrl1 (b : Byte) : (s.setCtrl1 b).ctrl1 = b := rfl
@[simp] theorem State.setCtrl1_env (b : Byte) : (s.setCtrl1 b).env = s.env := rfl
@[simp] theorem State.setCtrl1_commands (b : Byte) : (s.setCtrl1 b).commands = s.commands := rfl
@[simp] theorem State.setCtrl1_responses (b : Byte) : (s.setCtrl1 b).responses = s.responses := rfl

/-! ### `State.setEnv` -/

@[simp] theorem State.setEnv_cfg (e : Env) : (s.setEnv e).cfg = s.cfg := rfl
@[simp] theorem State.setEnv_devaddr (e : Env) : (s.setEnv e).devaddr = s.devaddr := rfl
@[simp] theorem State.setEnv_ident (e : Env) : (s.setEnv e).ident = s.ident := rfl
@[simp] theorem State.setEnv_ctrl1 (e : Env) : (s.setEnv e).ctrl1 = s.ctrl1 := rfl
@[simp] theorem State.setEnv_env (e : Env) : (s.setEnv e).env = e := rfl
@[simp] theorem State.setEnv_commands (e : Env) : (s.setEnv e).commands = s.commands := rfl
@[simp] theorem State.setEnv_responses (e : Env) : (s.setEnv e).responses = s.responses := rfl

/-! ### `State.setCommands` -/

@[simp] theorem State.setCommands_cfg (ws : List Cmd) : (s.setCommands ws).cfg = s.cfg := rfl
@[simp] theorem State.setCommands_devaddr (ws : List Cmd) : (s.setCommands ws).devaddr = s.devaddr := rfl
@[simp] theorem State.setCommands_ident (ws : List Cmd) : (s.setCommands ws).ident = s.ident := rfl
@[simp] theorem State.setCommands_ctrl1 (ws : List Cmd) : (s.setCommands ws).ctrl1 = s.ctrl1 := rfl
@[simp] theorem State.setCommands_env (ws : List Cmd) : (s.setCommands ws).env = s.env := rfl
@[simp] theorem State.setCommands_commands (ws : List Cmd) : (s.setCommands ws).commands = ws := rfl
@[simp] theorem State.setCommands_responses (ws : List Cmd) : (s.setCommands ws).responses = s.responses := rfl

/-! ### `State.setResponses` -/

@[simp] theorem State.setResponses_cfg (rs : List Response) : (s.setResponses rs).cfg = s.cfg := rfl
@[simp] theorem State.setResponses_devaddr (rs : List Response) : (s.setResponses rs).devaddr = s.devaddr := rfl
@[simp] theorem State.setResponses_ident (rs : List Response) : (s.setResponses rs).ident = s.ident := rfl
@[simp] theorem State.setResponses_ctrl1 (rs : List Response) : (s.setResponses rs).ctrl1 = s.ctrl1 := rfl
@[simp] theorem State.setResponses_env (rs : List Response) : (s.setResponses rs).env = s.env := rfl
@[simp] theorem State.setResponses_commands (rs : List Response) : (s.setResponses rs).commands = s.commands := rfl
@[simp] theorem State.setResponses_responses (rs : List Response) : (s.setResponses rs).responses = rs := rfl

/-! ### `State.answer` -/

@[simp] theorem State.answer_cfg (r : Response) : (s.answer r).cfg = s.cfg := rfl
@[simp] theorem State.answer_devaddr (r : Response) : (s.answer r).devaddr = s.devaddr := rfl
@[simp] theorem State.answer_ident (r : Response) : (s.answer r).ident = s.ident := rfl
@[simp] theorem State.answer_ctrl1 (r : Response) : (s.answer r).ctrl1 = s.ctrl1 := rfl
@[simp] theorem State.answer_env (r : Response) : (s.answer r).env = s.env := rfl
@[simp] theorem State.answer_commands (r : Response) : (s.answer r).commands = s.commands := rfl
@[simp] theorem State.answer_responses (r : Response) : (s.answer r).responses = s.responses ++ [r] := rfl

/-! ### `State.afterPrimitive` -/

@[simp] theorem State.afterPrimitive_cfg : s.afterPrimitive.cfg = s.cfg := rfl
@[simp] theorem State.afterPrimitive_devaddr : s.afterPrimitive.devaddr = s.devaddr := rfl
@[simp] theorem State.afterPrimitive_ident : s.afterPrimitive.ident = s.ident := rfl
@[simp] theorem State.afterPrimitive_ctrl1 : s.afterPrimitive.ctrl1 = s.ctrl1 := rfl
@[simp] theorem State.afterPrimitive_env : s.afterPrimitive.env = s.env.afterPrimitive := rfl
@[simp] theorem State.afterPrimitive_commands : s.afterPrimitive.commands = s.commands := rfl
@[simp] theorem State.afterPrimitive_responses : s.afterPrimitive.responses = s.responses := rfl

/-! ### `State.interleave`: the other master changes `CTRL1` and its own inputs, nothing else -/

@[simp] theorem State.interleave_cfg : s.interleave.cfg = s.cfg := by
  unfold State.interleave; split <;> rfl

@[simp] theorem State.interleave_devaddr : s.interleave.devaddr = s.devaddr := by
  unfold State.interleave; split <;> rfl

@[simp] theorem State.interleave_ident : s.interleave.ident = s.ident := by
  unfold State.interleave; split <;> rfl

@[simp] theorem State.interleave_commands : s.interleave.commands = s.commands := by
  unfold State.interleave; split <;> rfl

@[simp] theorem State.interleave_responses : s.interleave.responses = s.responses := by
  unfold State.interleave; split <;> rfl

theorem State.interleave_of_exclusive (h : s.cfg.exclusiveBus = true) : s.interleave = s := by
  simp [State.interleave, h]

theorem State.interleave_ctrl1_of_shared (h : s.cfg.exclusiveBus = false) :
    s.interleave.ctrl1 = s.env.nextOther.getD s.ctrl1 := by
  simp [State.interleave, h]

/-! ### `writeReg` -/

@[simp] theorem writeReg_ctrl1 (b : Byte) : writeReg s .ctrl1 b = s.setCtrl1 b := rfl
@[simp] theorem writeReg_ident (b : Byte) : writeReg s .ident b = s := rfl
@[simp] theorem readReg_ctrl1 : readReg s .ctrl1 = s.ctrl1 := rfl
@[simp] theorem readReg_ident : readReg s .ident = s.ident := rfl

/-! ### `State.field` depends on the parameters and `CTRL1` alone -/

theorem State.field_congr {s t : State} (hc : t.cfg = s.cfg) (hb : t.ctrl1 = s.ctrl1) (f : Field) :
    t.field f = s.field f := by
  simp [State.field, hc, hb]

@[simp] theorem State.field_answer (r : Response) (f : Field) : (s.answer r).field f = s.field f := rfl
@[simp] theorem State.field_afterPrimitive (f : Field) : s.afterPrimitive.field f = s.field f := rfl
@[simp] theorem State.field_setCommands (ws : List Cmd) (f : Field) :
    (s.setCommands ws).field f = s.field f := rfl
@[simp] theorem State.field_setResponses (rs : List Response) (f : Field) :
    (s.setResponses rs).field f = s.field f := rfl

/-! ### The free inputs depend on the environment and the parameters alone -/

@[simp] theorem State.outcome_answer (r : Response) : (s.answer r).outcome = s.outcome := rfl
@[simp] theorem State.outcome_setCtrl1 (b : Byte) : (s.setCtrl1 b).outcome = s.outcome := rfl
@[simp] theorem State.outcome_setCommands (ws : List Cmd) :
    (s.setCommands ws).outcome = s.outcome := rfl
@[simp] theorem State.outcome_setResponses (rs : List Response) :
    (s.setResponses rs).outcome = s.outcome := rfl

theorem State.outcome_fails_of_ideal (h : s.cfg.idealTransport = true) :
    s.outcome.fails = false := by
  simp [State.outcome, h]

end Sys2Proof.Machine
end

