-- ==== Sys2Proof/Laws/Ops.lean ====
section
/-! SUPPORT. What each shared operation does, said once: the register map, the transport primitives,
and the four shapes of operation. -/

namespace Sys2Proof.Machine

open Sys2Proof.Config

/-! ### The rate operand -/

@[simp] theorem rateArg_toNat (p : Params) (r : RateHz) :
    (rateArg p r).toNat = r.toNat % 2 ^ p.rateW := by
  rw [rateArg, BitVec.toNat_ofNat]
  exact Nat.mod_eq_of_lt (Nat.lt_of_le_of_lt (Nat.mod_le _ _) r.isLt)

/-- A rate of at most `RATE_W` bits is the operand itself (R81). -/
theorem rateArg_of_lt {p : Params} {r : RateHz} (h : r.toNat < 2 ^ p.rateW) : rateArg p r = r :=
  BitVec.eq_of_toNat_eq (by rw [rateArg_toNat, Nat.mod_eq_of_lt h])

/-- The four rates are such rates, whatever `RATE_W` is (D18). -/
theorem rateArg_of_le_800 {p : Params} (h : p.wf = true) {r : RateHz} (hr : r.toNat ≤ 800) :
    rateArg p r = r := by
  have hw : 10 ≤ p.rateW := by
    simp only [Params.wf, Params.rateFits, Bool.and_eq_true, decide_eq_true_eq] at h
    exact h.2.1
  have := Nat.pow_le_pow_right (n := 2) (by decide) hw
  exact rateArg_of_lt (by omega)

/-! ### The register map -/

@[simp] theorem regAt_aIdent (p : Params) : regAt p p.aIdent = some .ident := by
  simp [regAt]

theorem regAt_aCtrl1 {p : Params} (h : p.wf = true) : regAt p p.aCtrl1 = some .ctrl1 := by
  simp [regAt, (Params.wf_positions h).2.2.2.2.symm]

/-! ### `primFails` and `delivered` -/

theorem State.primFails_of_unbound {s : State} (h : ¬ s.Bound) : s.primFails = true := by
  simp [State.primFails, h]

theorem State.primFails_of_bound {s : State} (h : s.Bound) : s.primFails = s.outcome.fails := by
  simp [State.primFails, h]

theorem State.primFails_of_ideal {s : State} (h : s.IdealTransport) : s.primFails = false := by
  rw [State.primFails_of_bound h.1, State.outcome_fails_of_ideal s h.2]

theorem State.delivered_of_ideal {s : State} (h : s.IdealTransport) (v : Byte) :
    s.delivered v = v := by
  simp [State.delivered, State.primFails_of_ideal h]

/-! ### The primitives -/

@[simp] theorem fieldRange_field (p : Params) (f : Field) :
    fieldRange p (fieldHi p f) (fieldLen f) = .ok () := by simp [fieldRange]

/-- A read primitive at a register of the map answers, whatever the transport does (R56, R57, R60). -/
theorem readWith_eq {s : State} {r : RegAddr} {reg : Reg} (hr : regAt s.cfg r = some reg)
    (get : Byte → Byte) :
    readWith s.devaddr r (.ok ()) get s =
      .ok ⟨s.delivered (get (readReg s reg)), !s.primFails, s.afterPrimitive⟩ := by
  by_cases h : s.devaddr = s.cfg.selfAddr <;>
    simp [readWith, State.delivered, State.primFails, hr, h]

/-- A write primitive at `CTRL1` answers, whatever the transport and the other master do (R58, R59,
R61). -/
theorem writeWith_ctrl1_eq {s : State} {r : RegAddr} (hr : regAt s.cfg r = some .ctrl1)
    (put : Byte → Byte) :
    writeWith s.devaddr r (.ok ()) put s =
      .ok ⟨!s.primFails,
        if s.devaddr = s.cfg.selfAddr then
          s.afterPrimitive.interleave.setCtrl1
            (if s.outcome.fails && !s.outcome.lands then s.afterPrimitive.interleave.ctrl1
             else put s.ctrl1)
        else s.afterPrimitive⟩ := by
  by_cases h : s.devaddr = s.cfg.selfAddr <;>
    simp [writeWith, writeRange, State.primFails, hr, h]

/-! ### What no primitive changes, whatever the parameters -/

theorem readWith_same {a : DevAddr} {r : RegAddr} {range : Except Refusal Unit}
    {get : Byte → Byte} {s : State} {x : ReadReply} (h : readWith a r range get s = .ok x) :
    SameElsewhere s x.state := by
  unfold readWith at h
  split at h
  · cases h; simp [SameElsewhere]
  · split at h
    · cases h
    · split at h <;> cases h; simp [SameElsewhere]

theorem writeWith_same {a : DevAddr} {r : RegAddr} {range : Except Refusal Unit}
    {put : Byte → Byte} {s : State} {x : WriteReply} (h : writeWith a r range put s = .ok x) :
    SameElsewhere s x.state := by
  unfold writeWith at h
  split at h
  · cases h; simp [SameElsewhere]
  · split at h
    · cases h
    · rename_i reg _
      split at h <;> cases h
      cases reg <;> simp [SameElsewhere]

theorem tReadBits_same {a : DevAddr} {r : RegAddr} {hi len : Nat} {s : State} {x : ReadReply}
    (h : tReadBits a r hi len s = .ok x) : SameElsewhere s x.state := by
  unfold tReadBits at h
  split at h
  · exact readWith_same h
  · cases h

theorem tWriteBits_same {a : DevAddr} {r : RegAddr} {hi len : Nat} {v : Byte} {s : State}
    {x : WriteReply} (h : tWriteBits a r hi len v s = .ok x) : SameElsewhere s x.state := by
  unfold tWriteBits at h
  split at h
  · exact writeWith_same h
  · cases h

/-! ### Going on from a primitive: what holds of its state holds at the end -/

theorem issueRead_next {P : State → Prop} {p : Except Refusal ReadReply}
    {k : ReadReply → Answer State} (hp : ∀ x, p = .ok x → P x.state)
    (hk : ∀ x t, P x.state → k x = .next t → P t) {t : State} (h : issueRead p k = .next t) :
    P t := by
  cases p with
  | error e => cases h
  | ok x => exact hk x t (hp x rfl) h

theorem issueWrite_next {P : State → Prop} {p : Except Refusal WriteReply}
    {k : WriteReply → Answer State} (hp : ∀ x, p = .ok x → P x.state)
    (hk : ∀ x t, P x.state → k x = .next t → P t) {t : State} (h : issueWrite p k = .next t) :
    P t := by
  cases p with
  | error e => cases h
  | ok x => exact hk x t (hp x rfl) h

theorem setField_same {hi len : Nat} {v : Byte} {s t : State} (h : setField hi len v s = .next t) :
    SameElsewhere s t :=
  issueWrite_next (P := SameElsewhere s) (fun _ hx => tWriteBits_same hx)
    (fun _ _ hx ht => by cases ht; exact hx) h

theorem getField_same {hi len : Nat} {dec : Byte → Result} {s t : State}
    (h : getField hi len dec s = .next t) : SameElsewhere s t :=
  issueRead_next (P := SameElsewhere s) (fun _ hx => tReadBits_same hx)
    (fun _ _ hx ht => by cases ht; exact hx) h

/-! ### The four shapes of operation -/

theorem getField_eq {s : State} (h : s.cfg.wf = true) (f : Field) (dec : Byte → Result) :
    getField (fieldHi s.cfg f) (fieldLen f) dec s =
      .next (s.afterPrimitive.answer ⟨false, s.primFails, dec (s.delivered (s.field f))⟩) := by
  simp [getField, tReadBits, rangeInside_field h f, readWith_eq (regAt_aCtrl1 h), issueRead,
    respond, xfailOf, State.field]

theorem getBit_eq {s : State} (h : s.cfg.wf = true) {f : Field} (hf : fieldLen f = 1) :
    getBit (fieldHi s.cfg f) s =
      .next (s.afterPrimitive.answer
        ⟨false, s.primFails, boolResult (decide (s.delivered (s.field f) ≠ 0))⟩) := by
  have := getField_eq h f fun v => boolResult (decide (v ≠ 0))
  rwa [hf] at this

/-- A setter's answer, in full. -/
theorem setField_eq {s : State} (h : s.cfg.wf = true) (f : Field) (v : Byte) :
    setField (fieldHi s.cfg f) (fieldLen f) v s =
      .next ((if s.devaddr = s.cfg.selfAddr then
          s.afterPrimitive.interleave.setCtrl1
            (if s.outcome.fails && !s.outcome.lands then s.afterPrimitive.interleave.ctrl1
             else writeField s.ctrl1 (fieldHi s.cfg f) (fieldLen f) v)
        else s.afterPrimitive).answer ⟨false, s.primFails, 0⟩) := by
  simp only [setField, tWriteBits, rangeInside_field h f, if_true, fieldRange_field,
    writeWith_ctrl1_eq (regAt_aCtrl1 h), issueWrite, respond, xfailOf, List.any_cons, List.any_nil,
    Bool.not_not, Bool.or_false]

/-- What a write of a field leaves, once, for both write primitives. -/
theorem setField_next {s : State} (h : s.cfg.wf = true) (f : Field) (v : Byte) :
    ∃ t, setField (fieldHi s.cfg f) (fieldLen f) v s = .next t ∧
      SetsField f (v &&& lowMask (fieldLen f)) s t := by
  have hw : ∀ (u : State), u.cfg = s.cfg →
      u.ctrl1 = writeField s.ctrl1 (fieldHi s.cfg f) (fieldLen f) v →
      FieldWritten f (v &&& lowMask (fieldLen f)) s u := by
    intro u hc hu
    refine ⟨?_, fun g hg => ?_⟩
    · rw [State.field, hc, hu, readField_writeField_same h]
    · rw [State.field, State.field, hc, hu, readField_writeField_other h hg]
  rw [setField_eq h]
  by_cases hb : s.devaddr = s.cfg.selfAddr
  · refine ⟨_, rfl, ?_⟩
    rw [if_pos hb]
    refine ⟨by simp [SameElsewhere], by simp, ?_, ?_, fun hn => absurd hb hn, by simp [hb]⟩
    · intro hp
      rw [State.primFails_of_bound hb] at hp
      exact hw _ (by simp) (by simp [hp])
    · intro _ _
      by_cases hl : (s.outcome.fails && !s.outcome.lands) = true
      · exact .inl (by simp [hl])
      · exact .inr (hw _ (by simp) (by simp [hl]))
  · refine ⟨_, rfl, ?_⟩
    rw [if_neg hb]
    refine ⟨by simp [SameElsewhere], by simp, ?_, fun _ hn => absurd hn hb, fun _ => by simp, by simp [hb]⟩
    intro hp
    rw [State.primFails_of_unbound hb] at hp
    cases hp

theorem setBit_eq_setField (bit : Nat) (flag : Bool) (s : State) :
    setBit bit flag s = setField bit 1 (if flag then 1 else 0) s := by
  cases flag <;>
    simp [setBit, setField, tWriteBit, tWriteBits, writeBitOf_eq_writeField]

theorem setBit_next {s : State} (h : s.cfg.wf = true) {f : Field} (hf : fieldLen f = 1)
    (flag : Bool) :
    ∃ t, setBit (fieldHi s.cfg f) flag s = .next t ∧
      SetsField f (if flag then 1 else 0) s t := by
  have hm : (if flag then 1 else 0 : Byte) &&& lowMask 1 = if flag then 1 else 0 := by
    cases flag <;> decide
  have := setField_next h f (if flag then 1 else 0)
  rwa [hf, hm, ← setBit_eq_setField] at this

end Sys2Proof.Machine
end

