-- ==== Sys2Proof/Laws/PerInstr.lean ====
section
/-! SUPPORT. One statement per operation of the opcode table: the canonical command word of an
operation lies in its own row, `w & 0xFF0000 = match` (spec/30_encoding.md rule R82). -/

namespace Sys2Proof.Laws.EncodedRow

/-- The `match` column of R82. -/
def matchOf : Instr → Cmd
  | .init => 0x010000
  | .testconn => 0x020000
  | .setrate _ => 0x030000
  | .getrate => 0x040000
  | .setbwm _ => 0x050000
  | .getbwm => 0x060000
  | .getbwc => 0x070000
  | .setpwr _ => 0x080000
  | .getpwr => 0x090000
  | .setxen _ => 0x0A0000
  | .getxen => 0x0B0000
  | .setyen _ => 0x0C0000
  | .getyen => 0x0D0000
  | .setzen _ => 0x0E0000
  | .getzen => 0x0F0000

def Statement (i : Instr) : Prop := encode i &&& 0xFF0000 = matchOf i

/-- Masking a command word keeps its opcode and clears its operand (R80, R82). -/
theorem mask_commandWord (op : Byte) (arg : BitVec 16) :
    commandWord op arg &&& 0xFF0000 = commandWord op 0 := by
  apply BitVec.eq_of_getLsbD_eq
  intro i hi
  have h : (0xFF0000 : Cmd) = 0xFF#8 ++ 0#16 := by decide
  rw [h, BitVec.getLsbD_and]
  simp only [commandWord, BitVec.getLsbD_append]
  by_cases h1 : i < 16
  · simp [h1]
  · have h2 : (0xFF#8).getLsbD (i - 16) = true := by
      have : i - 16 < 8 := by omega
      interval_cases i - 16 <;> rfl
    simp [h1, h2]

theorem init : Statement .init := mask_commandWord _ _
theorem testconn : Statement .testconn := mask_commandWord _ _
theorem setrate (rateHz : RateHz) : Statement (.setrate rateHz) := mask_commandWord _ _
theorem getrate : Statement .getrate := mask_commandWord _ _
theorem setbwm (mode : Byte) : Statement (.setbwm mode) := mask_commandWord _ _
theorem getbwm : Statement .getbwm := mask_commandWord _ _
theorem getbwc : Statement .getbwc := mask_commandWord _ _
theorem setpwr (on : Bool) : Statement (.setpwr on) := mask_commandWord _ _
theorem getpwr : Statement .getpwr := mask_commandWord _ _
theorem setxen (enabled : Bool) : Statement (.setxen enabled) := mask_commandWord _ _
theorem getxen : Statement .getxen := mask_commandWord _ _
theorem setyen (enabled : Bool) : Statement (.setyen enabled) := mask_commandWord _ _
theorem getyen : Statement .getyen := mask_commandWord _ _
theorem setzen (enabled : Bool) : Statement (.setzen enabled) := mask_commandWord _ _
theorem getzen : Statement .getzen := mask_commandWord _ _

end Sys2Proof.Laws.EncodedRow
end

