-- ==== Sys2Proof/Tests/Slice0.lean ====
section
/-! SUPPORT. The author's own tests. Expected values are the vectors of spec/95_test_vectors.md (named
in each comment) or are read off the rule cited. After them, one witness for the hypotheses of each
obligation that has any. -/

namespace Sys2Proof.Tests

open Sys2Proof.Machine Sys2Proof.Config

/-! ### States for tests -/

/-- The spec's defaults, with a reset value of `CTRL1` and both premises assumed. -/
def idealParams : Params :=
  { standardParams with ctrl1Reset := 0, exclusiveBus := true, idealTransport := true }

/-- The spec's defaults, with neither premise. -/
def openParams : Params := { standardParams with ctrl1Reset := 0 }

/-- A block with `CTRL1 = c`, bound, with an ideal transport and no other master. -/
def quiet (c : Byte) : State := { State.resetWith idealParams true 0 with ctrl1 := c }

/-- A block with `CTRL1 = c`, bound, with the given inputs of its next primitives and the given moves
of the other master. -/
def noisy (c : Byte) (outcomes : List BusOutcome) (others : List (Option Byte)) : State :=
  { State.resetWith openParams true 0 with ctrl1 := c, env := ⟨outcomes, others, 0⟩ }

/-- A block bound to 0x68, which no CSR file answers (95_test_vectors P4). -/
def unbound (c : Byte) (junk : Byte) : State :=
  { State.resetWith { openParams with exclusiveBus := true } false 0x68 with
    ctrl1 := c, env := ⟨[⟨false, junk, false⟩], [], 0⟩ }

def failed (junk : Byte) (lands : Bool) : BusOutcome := ⟨true, junk, lands⟩
def good : BusOutcome := ⟨false, 0, false⟩

def ctrl1Of : Answer State → Option Byte
  | .next t => some t.ctrl1
  | .fault _ => none
  | .refused _ => none

def responsesOf : Answer State → Option (List Response)
  | .next t => some t.responses
  | .fault _ => none
  | .refused _ => none

def goesOn (a : Answer State) : Bool := (ctrl1Of a).isSome

/-! ### Parameters: each check of R8 refuses an ill-formed term -/

theorem test_standardParams_wf : standardParams.wf = true := by decide
theorem test_wf_refuses_split_field :
    { standardParams with rateHi := 7, rateLo := 5, bwHi := 6, bwLo := 4 }.wf = false := by decide
theorem test_contiguous_refuses : { standardParams with bwHi := 4, bwLo := 5 }.contiguous = false := by
  decide
theorem test_inside_refuses : { standardParams with xenBit := 8 }.inside = false := by decide
theorem test_disjoint_refuses : { standardParams with yenBit := 2 }.disjoint = false := by decide
theorem test_covers_refuses : { standardParams with xenBit := 9 }.covers = false := by decide
theorem test_addresses_refuse : { standardParams with aCtrl1 := 0x0F }.addressesDiffer = false := by
  decide
theorem test_rateCodes_refuse : { standardParams with rc400 := 3 }.rateCodesDiffer = false := by decide
theorem test_modeCodes_refuse : { standardParams with bmHigh := 0 }.modeCodesDiffer = false := by decide
theorem test_widths_refuse : { standardParams with raddrW := 5 }.addressesFit = false ∧
    { standardParams with daddrW := 6 }.addressesFit = false := by decide
theorem test_rateWidth_refuses : { standardParams with rateW := 9 }.rateFits = false ∧
    { standardParams with rateW := 17 }.rateFits = false := by decide

/-- Other widths, another layout and other codes that meet R8. -/
def otherParams : Params :=
  { idealParams with
    raddrW := 6, daddrW := 10, rateW := 10
    rateHi := 1, rateLo := 0, bwHi := 4, bwLo := 3, pwrBit := 2, zenBit := 5, yenBit := 7, xenBit := 6
    rc100 := 3, rc200 := 0, rc400 := 1, rc800 := 2, bmLow := 2, bmHigh := 0, bmMedHigh := 3 }

theorem test_otherParams_wf : otherParams.wf = true := by decide

/-! ### Decoding: every row, its word written out from 30_encoding R80 and R82 -/

theorem test_decode_init : decode 0b000000010000000000000000 = .op .init := by decide
/-- V-E2. -/
theorem test_decode_init_ignores_arg : decode 0b000000011111111111111111 = .op .init := by decide
theorem test_decode_testconn : decode 0b000000100000000000000000 = .op .testconn := by decide
/-- V-E4. -/
theorem test_decode_setrate : decode 0b000000110000000011001000 = .op (.setrate 200) := by decide
theorem test_decode_getrate : decode 0b000001000000000000000000 = .op .getrate := by decide
/-- V-E8. -/
theorem test_decode_setbwm : decode 0b000001011010101100000010 = .op (.setbwm 2) := by decide
theorem test_decode_getbwm : decode 0b000001100000000000000000 = .op .getbwm := by decide
theorem test_decode_getbwc : decode 0b000001110000000000000000 = .op .getbwc := by decide
/-- V-E12. -/
theorem test_decode_setpwr : decode 0b000010001000000000000000 = .op (.setpwr true) := by decide
theorem test_decode_getpwr : decode 0b000010010000000000000000 = .op .getpwr := by decide
theorem test_decode_setxen : decode 0b000010100000000000000000 = .op (.setxen false) := by decide
theorem test_decode_getxen : decode 0b000010110000000000000000 = .op .getxen := by decide
theorem test_decode_setyen : decode 0b000011000000000000000001 = .op (.setyen true) := by decide
theorem test_decode_getyen : decode 0b000011010000000000000000 = .op .getyen := by decide
theorem test_decode_setzen : decode 0b000011100000000000000001 = .op (.setzen true) := by decide
theorem test_decode_getzen : decode 0b000011110000000000000000 = .op .getzen := by decide
/-- V-E15 to V-E17. -/
theorem test_decode_reserved :
    decode 0x000000 = .reserved 0 ∧ decode 0x100000 = .reserved 0x10 ∧
    decode 0xFF1234 = .reserved 0xFF := by decide

/-- The host's two views of a word agree, and the first step after reset answers it. -/
theorem test_first_step_runs_every_row :
    ∀ op ∈ List.range 16, op ≠ 0 →
      (decodeTableWord 24 (op * 65536)).isSome = true ∧
      goesOn (step (State.reset.withFetchWord 24 (op * 65536))) = true := by decide

/-! ### Bit fields: V-T1, V-T8, V-T14, V-T17, V-T23, V-T25 -/

theorem test_readField : readField 0x6F 7 2 = 1 ∧ readField 0x90 5 2 = 1 := by decide
theorem test_writeField : writeField 0xA5 5 2 1 = 0x95 ∧ writeField 0x00 5 2 7 = 0x30 := by decide
theorem test_writeBitOf : writeBitOf 0x55 2 0 = 0x51 ∧ writeBitOf 0xAA 2 5 = 0xAE := by decide

/-- R81 with R84: of 0x464 = 1124 a `RATE_W` of 10 reads 100, the default 16 all of it. -/
theorem test_rateArg : rateArg { standardParams with rateW := 10 } 0x464 = 100 ∧
    rateArg standardParams 0x464 = 1124 := by decide

/-- U18: `CTRL1[6:5]` is none of the six fields, nor is bit 7 alone; D23: a write to `IDENT` is
ignored with any range. -/
theorem test_range_other_than_field :
    tReadBits 0x69 0x20 6 2 (quiet 0) = .error (.rangeOtherThanField 6 2) ∧
    tWriteBit 0x69 0x20 7 1 (quiet 0) = .error (.rangeOtherThanField 7 1) ∧
    (tWriteBits 0x69 0x0F 7 8 0 (quiet 0)).toOption.map (fun x => x.state.ident) = some 0xD3 := by
  decide

/-! ### Operations, at most two each -/

/-- V-I2. -/
theorem test_init : ctrl1Of (exec .init (quiet 0x07)) = some 0x0F := by decide
/-- V-F1: both outcomes of a failed write. -/
theorem test_init_failed :
    ctrl1Of (exec .init (noisy 0x07 [failed 0 false] [none])) = some 0x07 ∧
    ctrl1Of (exec .init (noisy 0x07 [failed 0 true] [none])) = some 0x0F := by decide
/-- V-I6. -/
theorem test_testconn : responsesOf (exec .testconn (quiet 0)) = some [⟨false, false, 1⟩] := by decide
/-- V-F10, V-F11. -/
theorem test_testconn_failed :
    responsesOf (exec .testconn (noisy 0 [failed 0xD3 false] [])) = some [⟨false, true, 1⟩] ∧
    responsesOf (exec .testconn (noisy 0 [failed 0xFF false] [])) = some [⟨false, true, 0⟩] := by
  decide
/-- V-RT2, V-RT9. -/
theorem test_setrate :
    ctrl1Of (exec (.setrate 200) (quiet 0x0F)) = some 0x4F ∧
    ctrl1Of (exec (.setrate 101) (quiet 0x0F)) = some 0xCF := by decide
/-- V-H1: the other master's write of 0x0E is lost. -/
theorem test_setrate_lost_update :
    ctrl1Of (exec (.setrate 200) (noisy 0x0F [good] [some 0x0E])) = some 0x4F := by decide
/-- V-RT2. -/
theorem test_getrate : responsesOf (exec .getrate (quiet 0x4F)) = some [⟨false, false, 200⟩] := by
  decide
/-- V-F4 with V-RT19. -/
theorem test_getrate_failed :
    responsesOf (exec .getrate (noisy 0x4F [failed 4 false] [])) = some [⟨false, true, 800⟩] := by
  decide
/-- V-B1, V-B6. -/
theorem test_setbwm :
    ctrl1Of (exec (.setbwm 2) (quiet 0x4F)) = some 0x6F ∧
    ctrl1Of (exec (.setbwm 7) (quiet 0x00)) = some 0x30 := by decide
/-- V-B22. -/
theorem test_getbwm : responsesOf (exec .getbwm (quiet 0x6F)) = some [⟨false, false, 2⟩] := by decide
/-- V-F5: not clamped. -/
theorem test_getbwm_failed :
    responsesOf (exec .getbwm (noisy 0x6F [failed 0x9C false] [])) = some [⟨false, true, 0x9C⟩] := by
  decide
/-- V-F6, V-F7. -/
theorem test_getbwc_failed :
    responsesOf (exec .getbwc (noisy 0x6F [good, failed 0x2A false] [none])) =
      some [⟨false, true, 0x428C0000⟩] ∧
    responsesOf (exec .getbwc (noisy 0x6F [failed 0x2A false, good] [none])) =
      some [⟨false, true, 0x42480000⟩] := by decide
/-- V-H3: torn pair. -/
theorem test_getbwc_torn :
    responsesOf (exec .getbwc (noisy 0x0F [good, good] [some 0xFF])) =
      some [⟨false, false, 0x41C80000⟩] := by decide
/-- V-P1, V-P2. -/
theorem test_setpwr :
    ctrl1Of (exec (.setpwr false) (quiet 0x6F)) = some 0x67 ∧
    ctrl1Of (exec (.setpwr true) (quiet 0x67)) = some 0x6F := by decide
/-- V-P18, V-F9. -/
theorem test_getpwr :
    responsesOf (exec .getpwr (quiet 0xF0)) = some [⟨false, false, 0⟩] ∧
    responsesOf (exec .getpwr (noisy 0 [failed 0x40 false] [])) = some [⟨false, true, 1⟩] := by decide
/-- V-P3, V-P6. -/
theorem test_setxen :
    ctrl1Of (exec (.setxen false) (quiet 0x6F)) = some 0x6E ∧
    ctrl1Of (exec (.setxen true) (quiet 0x00)) = some 0x01 := by decide
/-- V-H2. -/
theorem test_setxen_lost_update :
    ctrl1Of (exec (.setxen false) (noisy 0x0F [good] [some 0xCF])) = some 0x0E := by decide
/-- V-P12, V-P13. -/
theorem test_getxen :
    responsesOf (exec .getxen (quiet 0x6E)) = some [⟨false, false, 0⟩] ∧
    responsesOf (exec .getxen (quiet 0x01)) = some [⟨false, false, 1⟩] := by decide
/-- V-P4, V-P7. -/
theorem test_setyen :
    ctrl1Of (exec (.setyen false) (quiet 0x6F)) = some 0x6D ∧
    ctrl1Of (exec (.setyen true) (quiet 0x00)) = some 0x02 := by decide
/-- V-P14, V-P15. -/
theorem test_getyen :
    responsesOf (exec .getyen (quiet 0x6D)) = some [⟨false, false, 0⟩] ∧
    responsesOf (exec .getyen (quiet 0x02)) = some [⟨false, false, 1⟩] := by decide
/-- V-P5, V-P8. -/
theorem test_setzen :
    ctrl1Of (exec (.setzen false) (quiet 0x6F)) = some 0x6B ∧
    ctrl1Of (exec (.setzen true) (quiet 0x00)) = some 0x04 := by decide
/-- V-P16, V-P17. -/
theorem test_getzen :
    responsesOf (exec .getzen (quiet 0x6B)) = some [⟨false, false, 0⟩] ∧
    responsesOf (exec .getzen (quiet 0x04)) = some [⟨false, false, 1⟩] := by decide

/-! ### Steps -/

/-- V-H4: the other master's write between two operations is seen by the next one. -/
theorem test_step_sees_other_master :
    responsesOf (step { noisy 0x4F [good] [some 0x8F] with commands := [0x040000] }) =
      some [⟨false, false, 400⟩] := by decide
/-- P4, last row: a reserved word. -/
theorem test_step_reserved :
    responsesOf (step { unbound 0x07 0 with commands := [0x200000] }) = some [⟨true, false, 0⟩] := by
  decide
/-- P4: nothing reaches the CSR file (V-F3). -/
theorem test_step_unbound :
    ctrl1Of (step { unbound 0x07 0 with commands := [0x030190] }) = some 0x07 ∧
    responsesOf (step { unbound 0x07 0 with commands := [0x030190] }) = some [⟨false, true, 0⟩] := by
  decide

/-- P4's `BIND 0x68` and first command; `BIND_DEFAULT` binds 0x69 (V-X1, V-X2). -/
theorem test_startProgram :
    (startProgram standardParams (.address 0x68) [.testconn]).devaddr = 0x68 ∧
    (startProgram standardParams (.address 0x68) [.testconn]).commands = [0x020000] ∧
    (startProgram standardParams .useDefault []).devaddr = 0x69 := by decide

/-- `SETBWM MED_HIGH` and `SETPWR 1` of R90's worked encodings. -/
theorem test_assemble :
    (assemble standardParams .SETBWM (.modeName .medHigh)).map encode = some 0x050002 ∧
    (assemble standardParams .SETPWR (.number 1)).map encode = some 0x080001 ∧
    assemble standardParams .SETPWR (.number 2) = none := by decide

/-- R90's worked encodings. -/
theorem test_assembleLine :
    (["INIT", "TESTCONN", "SETRATE 200", "SETRATE 999", "GETRATE", "SETBWM MED_HIGH", "GETBWM",
      "GETBWC", "SETPWR 1", "SETXEN 0", "GETZEN"].map fun l =>
        (assembleLine standardParams l).map encode) =
    [some 0x010000, some 0x020000, some 0x0300C8, some 0x0303E7, some 0x040000, some 0x050002,
      some 0x060000, some 0x070000, some 0x080001, some 0x0A0000, some 0x0F0000] := by decide

/-- R89's number formats, alias and ranges. -/
theorem test_assembleLine_formats :
    assembleLine standardParams "SETRATE 0xffFF" = some (.setrate 65535) ∧
    assembleLine standardParams "SETRATE 65536" = none ∧
    assembleLine standardParams "setBandwidthCutOffMode 255" = some (.setbwm 255) ∧
    assembleLine standardParams "SETZEN true" = some (.setzen true) ∧
    assembleLine standardParams "SETYEN 2" = none ∧
    assembleLine standardParams "GETPWR 1" = none := by decide

/-- A binding stands at the head and nowhere else (R90). -/
theorem test_loadProgram :
    (loadProgram standardParams ["BIND 0x68", "SETRATE 400"]).map (fun s => s.devaddr) =
      some 0x68 ∧
    (loadProgram standardParams ["BIND 0x68", "SETRATE 400"]).map (fun s => s.commands) =
      some [0x030190] ∧
    (loadProgram standardParams ["INIT", "BIND_DEFAULT"]).isNone = true ∧
    (loadProgram standardParams ["BIND 128"]).isNone = true := by decide

/-! ### Witnesses: the hypotheses of each obligation hold together -/

theorem witness_EveryWordIsOneRowOrReserved :
    decode 0x010000 = .op .init ∧ decode 0x0FFFFF = .op .getzen ∧ decode 0x00FFFF = .reserved 0 ∧
    decode 0x100000 = .reserved 0x10 := by decide

theorem witness_StepRunsTheDecodedOperation :
    { quiet 0 with commands := [0x0300C8, 0x040000] }.commands = 0x0300C8 :: [0x040000] ∧
    decode 0x0300C8 = .op (.setrate 200) := by decide

theorem witness_ReservedOpcodeIsAnsweredIll :
    { quiet 0 with commands := [0x00FFFF] }.commands = 0x00FFFF :: [] ∧
    ((0x00FFFF : Cmd).extractLsb' 16 8).toNat = 0 ∧
    0x10 ≤ ((0x100000 : Cmd).extractLsb' 16 8).toNat ∧
    0x10 ≤ ((0xFFFFFF : Cmd).extractLsb' 16 8).toNat := by decide

theorem witness_WaitingBlockDoesNothing : (quiet 0).commands = [] ∧ (quiet 0).ExclusiveBus := by decide

theorem witness_OtherMasterReplacesCtrl1Only :
    (quiet 0).ExclusiveBus ∧ ¬ (noisy 0 [] [some 0x0E]).ExclusiveBus ∧
    (noisy 0 [] [some 0x0E]).interleave.ctrl1 = 0x0E ∧
    (noisy 0x0F [] [none]).interleave.ctrl1 = 0x0F := by decide

theorem witness_ResetMeetsTheInvariant : otherParams.wf = true ∧ standardParams.wf = true := by decide

theorem witness_StepKeepsTheInvariant :
    { quiet 0 with commands := [0x200000, 0x010000] }.Inv ∧
    goesOn (step { quiet 0 with commands := [0x200000, 0x010000] }) = true := by decide

theorem witness_StepKeepsBindingAndIdentity :
    goesOn (step { unbound 0 0 with commands := [0x070000] }) = true ∧
    goesOn (step (quiet 0)) = true := by decide

theorem witness_EveryCommandGetsOneResponse :
    (quiet 0).Legal ∧ (quiet 0).commands = [] ∧
    { quiet 0 with commands := [0x200000] }.Legal ∧
    { quiet 0 with commands := [0x200000] }.commands ≠ [] := by decide

theorem witness_EveryOperationRunsToItsResponse :
    (noisy 0 [] []).cfg.wf = true ∧ { quiet 0 with cfg := otherParams }.cfg.wf = true := by decide

theorem witness_FrameOfEveryOperation :
    (quiet 0x5A).cfg.wf = true ∧ (quiet 0x5A).ExclusiveBus ∧
    goesOn (exec .getbwc (quiet 0x5A)) = true ∧ setterOf (quiet 0x5A).cfg .getbwc = none ∧
    goesOn (exec (.setyen true) (quiet 0x5A)) = true ∧
    setterOf (quiet 0x5A).cfg (.setyen true) = some (.yen, 1) ∧ Field.rate ≠ Field.yen := by decide

theorem witness_ResultsHaveTheirType :
    (noisy 0 [failed 0xFF false] []).cfg.wf = true ∧
    goesOn (exec .getbwm (noisy 0 [failed 0xFF false] [])) = true := by decide

theorem witness_EachPrimitiveTakesOneOutcome :
    (noisy 0 [good, failed 0 false] [none]).cfg.wf = true ∧
    goesOn (exec .getbwc (noisy 0 [good, failed 0 false] [none])) = true ∧
    primitiveCount .getbwc ≤ (noisy 0 [good, failed 0 false] [none]).env.outcomes.length := by decide

theorem witness_LinesAssembleToTheirOperation :
    wordsOf "getXEnabled" = ["getXEnabled"] ∧ mnemonicOf "getXEnabled" = some .GETXEN ∧
    wordsOf "INIT 1 2" = "INIT" :: "1" :: ["2"] ∧ mnemonicOf "INIT" = some .INIT ∧
    wordsOf " SETPWR  true " = ["SETPWR", "true"] ∧ mnemonicOf "SETPWR" = some .SETPWR ∧
    wordsOf "SETZEN" = ["SETZEN"] ∧ mnemonicOf "SETZEN" = some .SETZEN ∧
    wordsOf "SETYEN 0 1" = "SETYEN" :: "0" :: "1" :: [] ∧ mnemonicOf "SETYEN" = some .SETYEN ∧
    wordsOf "SETRATE 0x10" = ["SETRATE", "0x10"] ∧ mnemonicOf "SETRATE" = some .SETRATE ∧
    wordsOf "SETBWM HIGH" = ["SETBWM", "HIGH"] ∧ mnemonicOf "SETBWM" = some .SETBWM ∧
    wordsOf "  " = [] ∧ wordsOf "init" = "init" :: [] ∧ mnemonicOf "init" = none := by decide

/-- The last number below the bounds of `SETRATE` and `SETBWM`, and the first above. -/
theorem witness_assemble_bounds :
    65535 < 2 ^ standardParams.rateW ∧ ¬ 65536 < 2 ^ standardParams.rateW ∧
    (∀ n, AsmOperand.absent ≠ .number n) := ⟨by decide, by decide, fun _ => by simp⟩

theorem witness_ResetBindsTheDeviceAddress :
    0x7F < 2 ^ standardParams.daddrW ∧ ¬ 0x80 < 2 ^ standardParams.daddrW := by decide

theorem witness_ProgramStartsBoundWithItsCommands : 0 < 2 ^ standardParams.daddrW := by decide

theorem witness_NumbersAreReadInBothBases :
    ['0', '9'] ≠ [] ∧ ['0', '9'].map digitOf = [0, 9].map some ∧ (∀ d ∈ [0, 9], d < 10) ∧
    ['f', 'F'].map digitOf = [15, 15].map some ∧ (∃ c ∈ ['1', 'g'], digitOf c = none) ∧
    (∀ rest, ['1', 'a'] ≠ '0' :: 'x' :: rest) ∧ (∃ c ∈ ['1', 'a'], ∀ d, digitOf c = some d → 10 ≤ d) :=
  ⟨by decide, by decide, by decide, by decide, ⟨'g', by decide, by decide⟩, fun _ => by simp,
    ⟨'a', by decide, fun d h => by
      rw [show digitOf 'a' = some 10 from by decide] at h; cases h; decide⟩⟩

theorem witness_ProgramTextIsBindingAndCommands :
    wordsOf "BIND_DEFAULT" = ["BIND_DEFAULT"] ∧ wordsOf "BIND 0x7F" = ["BIND", "0x7F"] ∧
    numberOf "0x7F".toList = some 127 ∧ numberOf "128".toList = some 128 ∧
    bindingOf standardParams "BIND 0x7F" = some (.address 127) ∧
    ["INIT", "GETPWR"].map (assembleLine standardParams) = [Instr.init, .getpwr].map some ∧
    bindingOf standardParams "INIT" = none ∧ assembleLine standardParams "BIND_DEFAULT" = none := by
  decide

/-- R90: there are no other pseudo-operations. -/
theorem test_bindingOf_refuses :
    ["BIND", "BIND x", "BIND 1 2", "BIND 128", "BIND_DEFAULT 1", "INIT", ""].map
      (bindingOf standardParams) = List.replicate 7 none := by decide

theorem witness_WordsAreTheRunsBetweenBlanks :
    "BIND".toList ≠ [] ∧ ' ' ∉ "BIND".toList ∧
    wordsOf (String.ofList ("BIND".toList ++ ' ' :: " 0x68 ".toList)) = ["BIND", "0x68"] ∧
    "0x68" ∈ wordsOf "BIND  0x68 " := by decide

theorem witness_WrongBindingReachesNothing :
    (unbound 0x07 0).cfg.wf = true ∧ ¬ (unbound 0x07 0).Bound ∧ (unbound 0x07 0).ExclusiveBus := by
  decide

theorem witness_ReadByteDeliversTheRegister :
    regAt (noisy 0 [good] []).cfg 0x0F = some .ident ∧
    regAt (noisy 0 [good] []).cfg 0x20 = some .ctrl1 ∧
    (noisy 0 [good] []).outcome.fails = false ∧
    (noisy 0 [failed 0x9C false] []).outcome.fails = true := by decide

theorem witness_ReadBitsDeliversTheField :
    (noisy 0 [good] []).cfg.wf = true ∧ regAt (noisy 0 [good] []).cfg 0x20 = some .ctrl1 ∧
    regAt (noisy 0 [good] []).cfg 0x0F = some .ident ∧
    7 = fieldHi (noisy 0 [good] []).cfg .rate ∧ 2 = fieldLen .rate ∧
    0 = fieldHi (noisy 0 [good] []).cfg .xen ∧ 1 = fieldLen .xen ∧
    (noisy 0 [good] []).outcome.fails = false ∧
    (noisy 0 [failed 0x9C false] []).outcome.fails = true := by decide

theorem witness_WriteBitChangesOneBit :
    (noisy 0 [good] []).cfg.wf = true ∧ fieldLen .xen = 1 ∧
    0 = fieldHi (noisy 0 [good] []).cfg .xen ∧ fieldLen .pwr = 1 ∧
    3 = fieldHi (noisy 0 [good] []).cfg .pwr ∧ (noisy 0 [good] []).outcome.fails = false := by decide

theorem witness_WriteBitsChangesItsRange :
    (noisy 0 [good] []).cfg.wf = true ∧ 7 = fieldHi (noisy 0 [good] []).cfg .rate ∧
    2 = fieldLen .rate ∧ 0 = fieldHi (noisy 0 [good] []).cfg .xen ∧ 1 = fieldLen .xen ∧
    (noisy 0 [good] []).outcome.fails = false := by decide

theorem witness_FailedWriteLeavesOldOrNew :
    (noisy 0 [failed 0 true] []).cfg.wf = true ∧
    5 = fieldHi (noisy 0 [failed 0 true] []).cfg .bw ∧ 2 = fieldLen .bw ∧
    (noisy 0 [failed 0 true] []).outcome.fails = true ∧
    (noisy 0 [failed 0 false] []).outcome.fails = true := by decide

theorem witness_PrimitiveOutsideTheMapIsRefused :
    0x21 ≠ (quiet 0).cfg.aIdent ∧ 0x21 ≠ (quiet 0).cfg.aCtrl1 ∧
    1 ≤ 2 ∧ 2 ≤ 7 + 1 ∧ 7 ≤ 7 ∧ (0 = 0 ∨ 7 + 1 < 0 ∨ 7 < 7) ∧
    (9 = 0 ∨ 7 + 1 < 9 ∨ 7 < 7) ∧ (1 = 0 ∨ 8 + 1 < 1 ∨ 7 < 8) ∧ 7 < 8 ∧ (quiet 0).cfg.wf = true ∧
    2 ≤ 6 + 1 ∧ isFieldRange (quiet 0).cfg 6 2 = false ∧ isFieldRange (quiet 0).cfg 7 8 = false := by
  decide

/-- `CTRL1[6:5]` is the range of no field, and bit 7 that of no one-bit field. -/
theorem witness_range_of_no_field :
    (∀ f, ¬(fieldHi (quiet 0).cfg f = 6 ∧ fieldLen f = 2)) ∧
    (∀ f, fieldLen f = 1 → fieldHi (quiet 0).cfg f ≠ 7) :=
  ⟨fun f => by cases f <;> decide, fun f => by cases f <;> decide⟩

theorem witness_WriteToIdentIsDiscarded :
    1 ≤ 8 ∧ 8 ≤ 7 + 1 ∧ 7 ≤ 7 ∧ 0 ≤ 7 ∧ (quiet 0).ExclusiveBus := by decide

theorem witness_RateEncoderIsExactWithFallback :
    (101 : RateHz) ≠ 100 ∧ (101 : RateHz) ≠ 200 ∧ (101 : RateHz) ≠ 400 := by decide

theorem witness_RateDecoderIsTotal :
    standardParams.wf = true ∧ (4 : Byte) ≠ standardParams.rc100.setWidth 8 ∧
    (4 : Byte) ≠ standardParams.rc200.setWidth 8 ∧ (4 : Byte) ≠ standardParams.rc400.setWidth 8 := by
  decide

theorem witness_ColumnSelectionIsTotal :
    standardParams.wf = true ∧ (4 : Byte) ≠ standardParams.bmLow.setWidth 8 ∧
    (4 : Byte) ≠ standardParams.bmMedLow.setWidth 8 ∧
    (4 : Byte) ≠ standardParams.bmMedHigh.setWidth 8 := by decide

/-- V-B39. -/
theorem witness_UnknownCodesFallBackToTheCorner :
    (0xAA : Byte) ≠ standardParams.rc100.setWidth 8 ∧ (0xAA : Byte) ≠ standardParams.rc200.setWidth 8 ∧
    (0xAA : Byte) ≠ standardParams.rc400.setWidth 8 ∧ (0xAA : Byte) ≠ standardParams.bmLow.setWidth 8 ∧
    (0xAA : Byte) ≠ standardParams.bmMedLow.setWidth 8 ∧
    (0xAA : Byte) ≠ standardParams.bmMedHigh.setWidth 8 ∧
    halfHertz (cutoff standardParams 0xAA 0xAA) = 220 := by decide

/-- For the statements about one operation (`InitSetsThePowerFlag` and those after it): the
parameters meet R8, in a state whose primitive succeeds, in two whose primitive fails (bound, and
not), and in one with another layout. -/
theorem witness_operation_statements :
    (noisy 0 [good] [none]).cfg.wf = true ∧ (noisy 0 [good] [none]).primFails = false ∧
    (noisy 0 [failed 0 true] [none]).cfg.wf = true ∧
    (noisy 0 [failed 0 true] [none]).primFails = true ∧ (noisy 0 [failed 0 true] [none]).Bound ∧
    (unbound 0 0).cfg.wf = true ∧ ¬ (unbound 0 0).Bound ∧ (unbound 0 0).primFails = true ∧
    { quiet 0 with cfg := otherParams }.cfg.wf = true ∧ standardParams.rateW = 16 := by decide

theorem witness_TestconnComparesTheIdentity :
    (quiet 0).IdealTransport ∧ (quiet 0).ident = 0xD3 := by decide

/-- For `RateRoundTrip`, `CutoffFollowsRateAndMode`, `FieldsAreIsolated`,
`RepeatingAnOperationChangesNothing` and `EveryCtrl1ValueIsReachable`. -/
theorem witness_ideal_premises :
    (quiet 0).cfg.wf = true ∧ (quiet 0).IdealTransport ∧ (quiet 0).ExclusiveBus ∧
    rateArg (quiet 0).cfg 999 ≠ 100 ∧ rateArg (quiet 0).cfg 999 ≠ 200 ∧
    rateArg (quiet 0).cfg 999 ≠ 400 := by decide

theorem witness_FieldsAreIsolated :
    setterOf (quiet 0).cfg (.setxen true) = some (.xen, 1) ∧ Field.yen ≠ Field.xen ∧
    setterOf (quiet 0).cfg .testconn = none := by decide

theorem witness_WritingEveryFieldDeterminesCtrl1 :
    ((quiet 0xA5).cfg.wf = true ∧ (quiet 0xA5).IdealTransport ∧ (quiet 0xA5).ExclusiveBus) ∧
    ∀ f, ∃ i ∈ [Instr.init, .setrate 200, .setbwm 2, .setxen true, .setyen true, .setzen true],
      ∃ v, setterOf (quiet 0xA5).cfg i = some (f, v) := by
  refine ⟨by decide, fun f => ?_⟩
  cases f
  · exact ⟨.setrate 200, by simp, _, rfl⟩
  · exact ⟨.setbwm 2, by simp, _, rfl⟩
  · exact ⟨.init, by simp, _, rfl⟩
  · exact ⟨.setzen true, by simp, _, rfl⟩
  · exact ⟨.setyen true, by simp, _, rfl⟩
  · exact ⟨.setxen true, by simp, _, rfl⟩

theorem witness_SettersOfDifferentFieldsCommute :
    ((quiet 0).cfg.wf = true ∧ (quiet 0).IdealTransport ∧ (quiet 0).ExclusiveBus) ∧
    setterOf (quiet 0).cfg .init = some (.pwr, 1) ∧
    setterOf (quiet 0).cfg (.setbwm 7) = some (.bw, 3) ∧ Field.pwr ≠ Field.bw := by decide

theorem witness_InitEqualsSetpwrTrue : (0x8000 : BitVec 16) ≠ 0 := by decide

theorem witness_OtherMastersUpdateIsLost :
    (noisy 0x0F [good] [some 0x0E]).cfg.wf = true ∧
    setterOf (noisy 0x0F [good] [some 0x0E]).cfg (.setrate 200) = some (.rate, 1) ∧
    (noisy 0x0F [good] [some 0x0E]).primFails = false := by decide

theorem witness_CutoffOfATornPair :
    let s : State := { noisy 0x0F [good, good] [some 0xFF] with
      cfg := { openParams with idealTransport := true } }
    s.cfg.wf = true ∧ s.IdealTransport ∧ ¬ s.ExclusiveBus ∧
    s.afterPrimitive.env.nextOther = some 0xFF := by decide

theorem witness_PowerFlagGatesNothing :
    (quiet 0x6F).cfg.wf = true ∧ (quiet 0x6F).ctrl1 ≠ 0x67 ∧ Instr.getrate ≠ .getpwr ∧
    ∀ g, g ≠ Field.pwr → ((quiet 0x6F).setCtrl1 0x67).field g = (quiet 0x6F).field g := by
  refine ⟨by decide, by decide, by decide, fun g hg => ?_⟩
  cases g
  case pwr => exact absurd rfl hg
  all_goals decide

end Sys2Proof.Tests
end

/-! Proofs of the statements about the state: reset, the frame of every operation, and the invariant
of the step (spec/10_state.md). First the layer of facts: what an operation that goes on has done,
said once for all fifteen; then what a step has done; then the obligations. -/

namespace Sys2Proof.Machine

open Sys2Proof.Config

/-! ### Going on from a primitive: the bind lemmas -/

theorem issueRead_eq_next {p : Except Refusal ReadReply} {k : ReadReply → Answer State}
    {t : State} : issueRead p k = .next t ↔ ∃ x, p = .ok x ∧ k x = .next t := by
  cases p <;> simp [issueRead]

theorem issueWrite_eq_next {p : Except Refusal WriteReply} {k : WriteReply → Answer State}
    {t : State} : issueWrite p k = .next t ↔ ∃ x, p = .ok x ∧ k x = .next t := by
  cases p <;> simp [issueWrite]

theorem respond_eq_next {s t : State} {result : Result} {oks : List Bool} :
    respond s result oks = .next t ↔ t = s.answer ⟨false, xfailOf oks, result⟩ := by
  simp [respond, eq_comm]

/-! ### What a primitive that answers leaves, whatever the parameters -/

/-- A read primitive takes its inputs and has no other effect (R56, R57). -/
theorem readWith_state {a : DevAddr} {r : RegAddr} {range : Except Refusal Unit}
    {get : Byte → Byte} {s : State} {x : ReadReply} (h : readWith a r range get s = .ok x) :
    x.state = s.afterPrimitive := by
  unfold readWith at h
  split at h
  · cases h; rfl
  · split at h
    · cases h
    · split at h <;> cases h; rfl

theorem tReadByte_state {a : DevAddr} {r : RegAddr} {s : State} {x : ReadReply}
    (h : tReadByte a r s = .ok x) : x.state = s.afterPrimitive := readWith_state h

theorem tReadBits_state {a : DevAddr} {r : RegAddr} {hi len : Nat} {s : State} {x : ReadReply}
    (h : tReadBits a r hi len s = .ok x) : x.state = s.afterPrimitive := by
  unfold tReadBits at h
  split at h
  · exact readWith_state h
  · cases h

/-- A write primitive gives no response. -/
theorem writeWith_responses {a : DevAddr} {r : RegAddr} {range : Except Refusal Unit}
    {put : Byte → Byte} {s : State} {x : WriteReply} (h : writeWith a r range put s = .ok x) :
    x.state.responses = s.responses := by
  unfold writeWith at h
  split at h
  · cases h; rfl
  · split at h
    · cases h
    · rename_i reg _
      split at h <;> cases h
      cases reg <;> simp

theorem tWriteBits_responses {a : DevAddr} {r : RegAddr} {hi len : Nat} {v : Byte} {s : State}
    {x : WriteReply} (h : tWriteBits a r hi len v s = .ok x) :
    x.state.responses = s.responses := by
  unfold tWriteBits at h
  split at h
  · exact writeWith_responses h
  · cases h

/-- With no other master, the interleaving point inside an operation is none (R176). -/
theorem afterPrimitive_interleave_of_exclusive {s : State} (hx : s.ExclusiveBus) :
    s.afterPrimitive.interleave = s.afterPrimitive := State.interleave_of_exclusive _ hx

/-- What the inputs of one write primitive leave of the block. -/
theorem afterPrimitive_interleave_same (s : State) :
    SameElsewhere s s.afterPrimitive.interleave ∧
      s.afterPrimitive.interleave.responses = s.responses ∧
      (s.ExclusiveBus → s.afterPrimitive.interleave.ctrl1 = s.ctrl1) :=
  ⟨by simp [SameElsewhere], by simp, fun hx => by
    rw [afterPrimitive_interleave_of_exclusive hx, State.afterPrimitive_ctrl1]⟩

/-! ### What an operation that goes on has done, whatever the parameters -/

/-- What every operation does besides changing `CTRL1` and taking inputs: it gives one response,
and not the `ill` one (R83, R86). -/
def Responds (s t : State) : Prop :=
  SameElsewhere s t ∧ ∃ r : Response, r.ill = false ∧ t.responses = s.responses ++ [r]

/-- How a getter ends: one read primitive and a response, or two reads with an interleaving point
between them (R128, R176). -/
def Reads (s t : State) : Prop :=
  ∃ r : Response, r.ill = false ∧
    (t = s.afterPrimitive.answer r ∨ t = s.afterPrimitive.interleave.afterPrimitive.answer r)

theorem Reads.responds {s t : State} (h : Reads s t) : Responds s t := by
  obtain ⟨r, hr, rfl | rfl⟩ := h <;> exact ⟨by simp [SameElsewhere], r, hr, by simp⟩

theorem Reads.ctrl1_of_exclusive {s t : State} (h : Reads s t) (hx : s.ExclusiveBus) :
    t.ctrl1 = s.ctrl1 := by
  obtain ⟨r, -, rfl | rfl⟩ := h <;> simp [afterPrimitive_interleave_of_exclusive hx]

theorem getField_reads {hi len : Nat} {dec : Byte → Result} {s t : State}
    (h : getField hi len dec s = .next t) : Reads s t := by
  obtain ⟨x, hx, hk⟩ := issueRead_eq_next.mp h
  rw [respond_eq_next, tReadBits_state hx] at hk
  exact ⟨_, rfl, .inl hk⟩

theorem getBit_reads {bit : Nat} {s t : State} (h : getBit bit s = .next t) : Reads s t :=
  getField_reads (dec := fun v => boolResult (decide (v ≠ 0))) h

theorem execGetrate_reads {s t : State} (h : execGetrate s = .next t) : Reads s t :=
  getField_reads h

theorem execGetbwm_reads {s t : State} (h : execGetbwm s = .next t) : Reads s t :=
  getField_reads h

theorem execTestconn_reads {s t : State} (h : execTestconn s = .next t) : Reads s t := by
  obtain ⟨x, hx, hk⟩ := issueRead_eq_next.mp h
  rw [respond_eq_next, tReadByte_state hx] at hk
  exact ⟨_, rfl, .inl hk⟩

theorem execGetbwc_reads {s t : State} (h : execGetbwc s = .next t) : Reads s t := by
  obtain ⟨x, hx, h2⟩ := issueRead_eq_next.mp h
  obtain ⟨y, hy, hk⟩ := issueRead_eq_next.mp h2
  rw [respond_eq_next, tReadBits_state hy, tReadBits_state hx] at hk
  exact ⟨_, rfl, .inr hk⟩

/-- Every operation that is no setter is made of reads (R53). -/
theorem exec_reads {i : Instr} {s t : State} (hi : setterOf s.cfg i = none)
    (h : exec i s = .next t) : Reads s t := by
  cases i <;> simp only [setterOf, reduceCtorEq] at hi
  case testconn => exact execTestconn_reads h
  case getbwc => exact execGetbwc_reads h
  case getrate => exact execGetrate_reads h
  case getbwm => exact execGetbwm_reads h
  case getpwr | getxen | getyen | getzen => exact getBit_reads h

theorem setField_responds {hi len : Nat} {v : Byte} {s t : State}
    (h : setField hi len v s = .next t) : Responds s t := by
  refine ⟨setField_same h, ?_⟩
  obtain ⟨x, hx, hk⟩ := issueWrite_eq_next.mp h
  rw [respond_eq_next] at hk
  exact ⟨_, rfl, by rw [hk, State.answer_responses, tWriteBits_responses hx]⟩

/-- A two-bit code is within the mask of its field. -/
theorem code_and_lowMask (c : Code) : c.setWidth 8 &&& lowMask 2 = c.setWidth 8 := by
  revert c; decide

/-- Every setter, the one-bit ones included, is one write of its field; `setterOf` names the value
after the bits above the field are cut (R59, R143). -/
theorem exec_setter_eq {i : Instr} {s : State} {f : Field} {v : Byte}
    (hi : setterOf s.cfg i = some (f, v)) :
    ∃ w, exec i s = setField (fieldHi s.cfg f) (fieldLen f) w s ∧
      w &&& lowMask (fieldLen f) = v := by
  cases i <;> simp only [setterOf, Option.some.injEq, Prod.mk.injEq, reduceCtorEq] at hi <;>
    obtain ⟨rfl, rfl⟩ := hi
  case init => exact ⟨1, setBit_eq_setField _ true s, by decide⟩
  case setrate => exact ⟨_, rfl, code_and_lowMask _⟩
  case setbwm mode => exact ⟨mode, rfl, rfl⟩
  case setpwr on | setxen on | setyen on | setzen on =>
    exact ⟨_, setBit_eq_setField _ on s, by cases on <;> decide⟩

/-- A setter goes on and does what `SetsField` says (R58, R59, R61). -/
theorem exec_setter_next {i : Instr} {s : State} {f : Field} {v : Byte} (h : s.cfg.wf = true)
    (hi : setterOf s.cfg i = some (f, v)) : ∃ t, exec i s = .next t ∧ SetsField f v s t := by
  obtain ⟨w, he, rfl⟩ := exec_setter_eq hi
  rw [he]
  exact setField_next h f w

theorem exec_responds {i : Instr} {s t : State} (h : exec i s = .next t) : Responds s t := by
  cases hi : setterOf s.cfg i with
  | none => exact (exec_reads hi h).responds
  | some fv =>
    obtain ⟨w, he, -⟩ := exec_setter_eq (f := fv.1) (v := fv.2) hi
    exact setField_responds (he ▸ h)

/-- With no other master, what a setter does not write stays, whether or not its primitive fails
and whatever the binding (R61, R144). -/
theorem SetsField.field_other {f g : Field} {v : Byte} {s t : State} (h : SetsField f v s t)
    (hx : s.ExclusiveBus) (hg : g ≠ f) : t.field g = s.field g := by
  obtain ⟨⟨hcfg, -, -, -⟩, -, hok, hfail, hunbound, -⟩ := h
  by_cases hb : s.Bound
  · cases hp : s.primFails with
    | false => exact (hok hp).2 g hg
    | true =>
      rcases hfail hp hb with hc | hw
      · rw [afterPrimitive_interleave_of_exclusive hx] at hc
        exact State.field_congr hcfg hc g
      · exact hw.2 g hg
  · exact State.field_congr hcfg (hunbound hb) g

/-! ### What a step does -/

theorem step_of_op {s : State} {w : Cmd} {rest : List Cmd} {i : Instr} (hc : s.commands = w :: rest)
    (hw : decode w = .op i) : step s = exec i (s.interleave.setCommands rest) := by
  simp only [step, runNext, hc, runWord, hw]

theorem step_of_reserved {s : State} {w : Cmd} {rest : List Cmd} {b : Byte}
    (hc : s.commands = w :: rest) (hw : decode w = .reserved b) :
    step s = .next ((s.interleave.setCommands rest).answer illResponse) := by
  simp only [step, runNext, hc, runWord, hw]

theorem step_of_idle {s : State} (hc : s.commands = []) : step s = .next s.interleave := by
  simp only [step, runNext, hc]

/-- The three ways a step goes on: nothing waits, a reserved opcode, an operation (R83, R86,
R153). -/
theorem step_cases {s t : State} (h : step s = .next t) :
    (s.commands = [] ∧ t = s.interleave) ∨
    (∃ w rest b, s.commands = w :: rest ∧ decode w = .reserved b ∧
      t = (s.interleave.setCommands rest).answer illResponse) ∨
    (∃ w rest i, s.commands = w :: rest ∧ decode w = .op i ∧
      exec i (s.interleave.setCommands rest) = .next t) := by
  cases hc : s.commands with
  | nil =>
    rw [step_of_idle hc] at h
    exact .inl ⟨rfl, by cases h; rfl⟩
  | cons w rest =>
    cases hw : decode w with
    | reserved b =>
      rw [step_of_reserved hc hw] at h
      exact .inr (.inl ⟨w, rest, b, rfl, hw, by cases h; rfl⟩)
    | op i =>
      rw [step_of_op hc hw] at h
      exact .inr (.inr ⟨w, rest, i, rfl, hw, h⟩)

/-- The frame of the step: binding, identity and parameters stay, the oldest command goes (R22, R24,
R26). -/
theorem step_frame {s t : State} (h : step s = .next t) :
    t.devaddr = s.devaddr ∧ t.ident = s.ident ∧ t.cfg = s.cfg ∧
      t.commands = s.commands.tail := by
  rcases step_cases h with ⟨hc, rfl⟩ | ⟨w, rest, b, hc, -, rfl⟩ | ⟨w, rest, i, hc, -, he⟩
  · simp [hc]
  · simp [hc]
  · obtain ⟨⟨hcfg, hdev, hid, hcmd⟩, -⟩ := exec_responds he
    simp [hc, hcfg, hdev, hid, hcmd]

/-- A step adds legal responses only (R83, R154). -/
theorem step_responses_legal {s t : State} (h : step s = .next t)
    (hs : ∀ r ∈ s.responses, r.Legal) : ∀ r ∈ t.responses, r.Legal := by
  rcases step_cases h with ⟨-, rfl⟩ | ⟨w, rest, b, -, -, rfl⟩ | ⟨w, rest, i, -, -, he⟩
  · rwa [State.interleave_responses]
  · have hill : illResponse.Legal := fun _ => ⟨rfl, rfl⟩
    rw [State.answer_responses, State.setCommands_responses, State.interleave_responses]
    exact List.forall_mem_append.mpr ⟨hs, List.forall_mem_singleton.mpr hill⟩
  · obtain ⟨-, r, hr, hres⟩ := exec_responds he
    have hlegal : r.Legal := fun hill => by simp [hr] at hill
    rw [hres, State.setCommands_responses, State.interleave_responses]
    exact List.forall_mem_append.mpr ⟨hs, List.forall_mem_singleton.mpr hlegal⟩

/-! ### The state after reset -/

/-- The default address has `DADDR_W` bits (R7). -/
theorem Params.wf_defaultAddress {p : Params} (h : p.wf = true) :
    p.defaultAddress < 2 ^ p.daddrW := by
  simp only [Params.wf, Params.addressesFit, Bool.and_eq_true, decide_eq_true_eq] at h
  obtain ⟨⟨-, ⟨-, hdef⟩, -⟩, -⟩ := h
  exact hdef

/-- The spec's defaults meet R8. -/
theorem standardParams_wf : standardParams.wf = true := by decide

/-- A number bound by the strap `addr` is cut to `DADDR_W` bits (R171). -/
theorem resetWith_strap_lt (p : Params) (addr : DevAddr) :
    (State.resetWith p false addr).devaddr < 2 ^ p.daddrW := Nat.mod_lt _ (Nat.two_pow_pos _)

theorem resetWith_inv {p : Params} (h : p.wf = true) (useDefault : Bool) (addr : DevAddr) :
    (State.resetWith p useDefault addr).Inv := by
  have hdev : (State.resetWith p useDefault addr).devaddr < 2 ^ p.daddrW := by
    cases useDefault with
    | false => exact resetWith_strap_lt p addr
    | true => exact Params.wf_defaultAddress h
  exact ⟨⟨h, rfl, hdev⟩, by simp [State.resetWith]⟩

/-! ### Writes addressed to `IDENT` -/

/-- A write primitive at `IDENT` answers with any range and leaves only the inputs taken, the other
master's move included (R26, D23). -/
theorem writeWith_ident_eq (s : State) (range : Except Refusal Unit) (put : Byte → Byte) :
    writeWith s.cfg.selfAddr s.cfg.aIdent range put s =
      .ok ⟨!s.outcome.fails, s.afterPrimitive.interleave⟩ := by
  simp [writeWith, writeRange]

theorem tWriteBits_ident_eq {s : State} {hi len : Nat} (h : rangeInside hi len = true) (v : Byte) :
    tWriteBits s.cfg.selfAddr s.cfg.aIdent hi len v s =
      .ok ⟨!s.outcome.fails, s.afterPrimitive.interleave⟩ := by
  rw [tWriteBits, if_pos h, writeWith_ident_eq]

theorem tWriteBit_ident_eq {s : State} {bit : Nat} (h : rangeInside bit 1 = true) (v : Byte) :
    tWriteBit s.cfg.selfAddr s.cfg.aIdent bit v s =
      .ok ⟨!s.outcome.fails, s.afterPrimitive.interleave⟩ := by
  rw [tWriteBit, if_pos h, writeWith_ident_eq]

/-! ### Every field can be set to every value of its width -/

/-- The four rate codes are all the codes there are (R8). -/
theorem code_eq_rateCode {p : Params} (h : p.wf = true) (c : Code) :
    c = p.rc100 ∨ c = p.rc200 ∨ c = p.rc400 ∨ c = p.rc800 := by
  simp only [Params.wf, Params.rateCodesDiffer, Bool.and_eq_true, decide_eq_true_eq,
    List.nodup_cons, List.mem_cons, List.not_mem_nil, or_false, not_or] at h
  obtain ⟨⟨⟨⟨-, ⟨h12, h13, h14⟩, ⟨h23, h24⟩, h34, -⟩, -⟩, -⟩, -⟩ := h
  bv_omega

/-- Every code is that of some rate operand (R111). -/
theorem exists_encRate_eq {p : Params} (h : p.wf = true) (c : Code) :
    ∃ r, encRate p (rateArg p r) = c := by
  rcases code_eq_rateCode h c with rfl | rfl | rfl | rfl
  · exact ⟨100, by rw [rateArg_of_le_800 h (by decide)]; rfl⟩
  · exact ⟨200, by rw [rateArg_of_le_800 h (by decide)]; rfl⟩
  · exact ⟨400, by rw [rateArg_of_le_800 h (by decide)]; rfl⟩
  · exact ⟨800, by rw [rateArg_of_le_800 h (by decide)]; rfl⟩

/-- A value of two bits is a code. -/
theorem setWidth_setWidth_of_and_lowMask {v : Byte} (hv : v &&& lowMask 2 = v) :
    (v.setWidth 2).setWidth 8 = v := by
  revert v; decide

/-- A value of one bit is 0 or 1. -/
theorem eq_flag_of_and_lowMask {v : Byte} (hv : v &&& lowMask 1 = v) :
    v = if decide (v = 1) then 1 else 0 := by
  revert v; decide

/-- Every value that fits a field is what some setter writes there. -/
theorem exists_setterOf {p : Params} (h : p.wf = true) (f : Field) {v : Byte}
    (hv : v &&& lowMask (fieldLen f) = v) : ∃ i, setterOf p i = some (f, v) := by
  cases f
  case rate =>
    obtain ⟨r, hr⟩ := exists_encRate_eq h (v.setWidth 2)
    exact ⟨.setrate r, by rw [setterOf, hr, setWidth_setWidth_of_and_lowMask hv]⟩
  case bw => exact ⟨.setbwm v, congrArg (fun u => some (Field.bw, u)) hv⟩
  case pwr => exact ⟨.setpwr (decide (v = 1)), by rw [setterOf, ← eq_flag_of_and_lowMask hv]⟩
  case zen => exact ⟨.setzen (decide (v = 1)), by rw [setterOf, ← eq_flag_of_and_lowMask hv]⟩
  case yen => exact ⟨.setyen (decide (v = 1)), by rw [setterOf, ← eq_flag_of_and_lowMask hv]⟩
  case xen => exact ⟨.setxen (decide (v = 1)), by rw [setterOf, ← eq_flag_of_and_lowMask hv]⟩

theorem readField_and_lowMask (b : Byte) (hi len : Nat) :
    readField b hi len &&& lowMask len = readField b hi len := by
  rw [readField, BitVec.and_assoc, BitVec.and_self]

theorem execAll_cons_of_next {i : Instr} {s t : State} (h : exec i s = .next t)
    (is : List Instr) : execAll (i :: is) s = execAll is t := by
  rw [execAll, h]

/-- Setters of the listed fields bring these to what they are in `b`, and move no field away from
it. -/
theorem exists_run_to_fields (b : Byte) (fs : List Field) :
    ∀ s : State, s.cfg.wf = true → s.IdealTransport → s.ExclusiveBus →
      ∃ is t, execAll is s = .next t ∧ t.cfg = s.cfg ∧
        ∀ g, g ∈ fs ∨ s.field g = (s.setCtrl1 b).field g → t.field g = (s.setCtrl1 b).field g := by
  induction fs with
  | nil => exact fun s _ _ _ => ⟨[], s, rfl, rfl, by simp⟩
  | cons f fs ih =>
    intro s hwf hideal hx
    obtain ⟨i, hi⟩ := exists_setterOf hwf f
      (readField_and_lowMask b (fieldHi s.cfg f) (fieldLen f))
    obtain ⟨u, hu, ⟨hcfg, hdev, -, -⟩, -, hok, -⟩ := exec_setter_next hwf hi
    obtain ⟨hset, hother⟩ := hok (State.primFails_of_ideal hideal)
    have hb : ∀ g, (u.setCtrl1 b).field g = (s.setCtrl1 b).field g :=
      State.field_congr hcfg rfl
    obtain ⟨is, t, ht, htcfg, hfields⟩ := ih u (by rwa [hcfg])
      (by simpa only [State.IdealTransport, State.Bound, hcfg, hdev] using hideal)
      (by simpa only [State.ExclusiveBus, hcfg] using hx)
    refine ⟨i :: is, t, by rw [execAll_cons_of_next hu, ht], htcfg.trans hcfg, fun g hg => ?_⟩
    rw [← hb g]
    apply hfields g
    by_cases hgf : g = f
    · subst hgf
      exact .inr (hset.trans (hb g).symm)
    · rw [hother g hgf, hb g]
      simpa [hgf] using hg

/-! ### The obligations -/

/-- Settles O13: the frame of the step keeps the state legal, and what it answers is legal. -/
theorem stepKeepsTheInvariant : Obligations.StepKeepsTheInvariant := by
  rintro s t ⟨⟨hwf, hident, hdev⟩, hres⟩ h
  obtain ⟨hd, hi, hc, -⟩ := step_frame h
  exact ⟨⟨hc ▸ hwf, hi.trans hident, by rwa [hd, hc]⟩, step_responses_legal h hres⟩

/-- Settles O14, by the frame of the step. -/
theorem stepKeepsBindingAndIdentity : Obligations.StepKeepsBindingAndIdentity :=
  fun _ _ h => step_frame h

/-- Settles O17: getters only read, and a setter does what `SetsField` says. -/
theorem frameOfEveryOperation : Obligations.FrameOfEveryOperation := by
  intro i s t hwf h
  refine ⟨(exec_responds h).1, fun hx hi => (exec_reads hi h).ctrl1_of_exclusive hx, ?_⟩
  intro hx f v hi g hg
  obtain ⟨u, hu, hsets⟩ := exec_setter_next hwf hi
  cases h.symm.trans hu
  exact hsets.field_other hx hg

/-- Settles O28: at `IDENT` both write primitives leave only the inputs taken. -/
theorem writeToIdentIsDiscarded : Obligations.WriteToIdentIsDiscarded := by
  intro hi len bit v s
  refine ⟨fun h1 h2 h3 => ?_, fun h => ?_⟩
  · exact ⟨_, tWriteBits_ident_eq (rangeInside_iff.mpr ⟨h1, h2, h3⟩) v, rfl,
      afterPrimitive_interleave_same s⟩
  · exact ⟨_, tWriteBit_ident_eq (rangeInside_iff.mpr ⟨le_rfl, by omega, h⟩) v, rfl,
      afterPrimitive_interleave_same s⟩

/-- Settles O51: setters of all six fields, each given what the field is in the byte wanted. -/
theorem everyCtrl1ValueIsReachable : Obligations.EveryCtrl1ValueIsReachable := by
  intro s b hwf hideal hx
  obtain ⟨is, t, ht, hcfg, hfields⟩ :=
    exists_run_to_fields b [.rate, .bw, .pwr, .zen, .yen, .xen] s hwf hideal hx
  refine ⟨is, t, ht, byte_ext_fields hwf fun f => ?_⟩
  have hf := hfields f (.inl (by cases f <;> simp))
  rwa [State.field, hcfg] at hf

/-- Settles O6. -/
theorem stepRunsTheDecodedOperation : Obligations.StepRunsTheDecodedOperation :=
  fun _ _ _ _ hc hw => step_of_op hc hw

/-- Settles O10, straight from the definition of reset. -/
theorem resetBindsTheDeviceAddress : Obligations.ResetBindsTheDeviceAddress :=
  fun p addr => ⟨rfl, Nat.mod_eq_of_lt, resetWith_strap_lt p addr,
    fun _ => ⟨rfl, rfl, rfl, rfl, rfl⟩⟩

/-- Settles O11. -/
theorem resetMeetsTheInvariant : Obligations.ResetMeetsTheInvariant :=
  ⟨resetWith_inv standardParams_wf true 0, rfl, fun _ useDefault addr h =>
    resetWith_inv h useDefault addr⟩

end Sys2Proof.Machine

/-! Proofs of the statements about the transport primitives and the device address
(spec/20_memory.md). First what each primitive answers, at any device address; then where it is
refused; then what an operation answers, said once for all fifteen; then the obligations. -/

namespace Sys2Proof.Machine

open Sys2Proof.Config

/-! ### What a primitive answers -/

/-- A read primitive at a register of the map answers, at any device address (R51, R56, R60). -/
theorem readWith_eq_of_regAt {r : RegAddr} {reg : Reg} {s : State}
    (hr : regAt s.cfg r = some reg) (a : DevAddr) (get : Byte → Byte) :
    readWith a r (.ok ()) get s =
      .ok ⟨if decide (a = s.cfg.selfAddr) && !s.outcome.fails then get (readReg s reg)
          else s.outcome.junk,
        decide (a = s.cfg.selfAddr) && !s.outcome.fails, s.afterPrimitive⟩ := by
  by_cases ha : a = s.cfg.selfAddr <;> cases hf : s.outcome.fails <;>
    simp [readWith, hr, ha, hf]

theorem tReadByte_eq {r : RegAddr} {reg : Reg} {s : State} (hr : regAt s.cfg r = some reg)
    (a : DevAddr) :
    tReadByte a r s =
      .ok ⟨if decide (a = s.cfg.selfAddr) && !s.outcome.fails then readReg s reg
          else s.outcome.junk,
        decide (a = s.cfg.selfAddr) && !s.outcome.fails, s.afterPrimitive⟩ :=
  readWith_eq_of_regAt hr a _

theorem tReadBits_field_eq {r : RegAddr} {reg : Reg} {s : State} (h : s.cfg.wf = true)
    (hr : regAt s.cfg r = some reg) (a : DevAddr) (f : Field) :
    tReadBits a r (fieldHi s.cfg f) (fieldLen f) s =
      .ok ⟨if decide (a = s.cfg.selfAddr) && !s.outcome.fails then
            readField (readReg s reg) (fieldHi s.cfg f) (fieldLen f)
          else s.outcome.junk,
        decide (a = s.cfg.selfAddr) && !s.outcome.fails, s.afterPrimitive⟩ := by
  rw [tReadBits, if_pos (rangeInside_field h f), fieldRange_field, readWith_eq_of_regAt hr]

/-- A write of a field of `CTRL1` answers, whatever the transport and the other master do (R59,
R61). -/
theorem tWriteBits_field_eq {s : State} (h : s.cfg.wf = true) (f : Field) (v : Byte) :
    tWriteBits s.cfg.selfAddr s.cfg.aCtrl1 (fieldHi s.cfg f) (fieldLen f) v s =
      .ok ⟨!s.outcome.fails,
        s.afterPrimitive.interleave.setCtrl1
          (if s.outcome.fails && !s.outcome.lands then s.afterPrimitive.interleave.ctrl1
           else writeField s.ctrl1 (fieldHi s.cfg f) (fieldLen f) v)⟩ := by
  simp [tWriteBits, rangeInside_field h f, writeWith, writeRange, regAt_aCtrl1 h]

/-- `TWriteBit` is a `TWriteBits` of a range of one bit, with any non-zero value as 1 (R58, D10). -/
theorem tWriteBit_eq_tWriteBits (a : DevAddr) (r : RegAddr) (bit : Nat) (v : Byte) (s : State) :
    tWriteBit a r bit v s = tWriteBits a r bit 1 (if v ≠ 0 then 1 else 0) s := by
  simp only [tWriteBit, tWriteBits, writeBitOf_eq_writeField]

/-- Bit 0 of the value `TWriteBit` writes. -/
theorem getLsbD_zero_flag (v : Byte) :
    (if v ≠ 0 then 1 else 0 : Byte).getLsbD 0 = decide (v ≠ 0) := by
  by_cases hv : v = 0#8 <;> simp [hv]

/-- What every read leaves of the block, the responses included. -/
theorem afterPrimitive_same (s : State) :
    SameElsewhere s s.afterPrimitive ∧ s.afterPrimitive.ctrl1 = s.ctrl1 ∧
      s.afterPrimitive.responses = s.responses := by
  simp [SameElsewhere]

/-- What a write to `CTRL1` leaves of the block but `CTRL1`, the responses included. -/
theorem interleave_setCtrl1_same (s : State) (b : Byte) :
    SameElsewhere s (s.afterPrimitive.interleave.setCtrl1 b) ∧
      (s.afterPrimitive.interleave.setCtrl1 b).responses = s.responses := by
  simp [SameElsewhere]

/-- The bits of a byte with a range written, the range by its two ends (R59). -/
theorem writeField_getLsbD_range {hi len : Nat} (h : rangeInside hi len = true) (b v : Byte)
    {i : Nat} (hi8 : i < 8) :
    (writeField b hi len v).getLsbD i =
      if hi + 1 - len ≤ i ∧ i ≤ hi then v.getLsbD (i - (hi + 1 - len)) else b.getLsbD i := by
  obtain ⟨h1, h2, -⟩ := rangeInside_iff.mp h
  have hrange : i - (hi + 1 - len) < len ↔ i ≤ hi := by omega
  simp only [writeField_getLsbD b hi len v i hi8, lowBit, hrange]

/-! ### Where a primitive is refused -/

theorem regAt_eq_none {p : Params} {r : RegAddr} (hi : r ≠ p.aIdent) (hc : r ≠ p.aCtrl1) :
    regAt p r = none := by
  simp [regAt, hi, hc]

theorem readWith_unmapped {r : RegAddr} {s : State} (hr : regAt s.cfg r = none)
    (range : Except Refusal Unit) (get : Byte → Byte) :
    readWith s.cfg.selfAddr r range get s = .error (.unmappedRegister r) := by
  simp [readWith, hr]

theorem writeWith_unmapped {r : RegAddr} {s : State} (hr : regAt s.cfg r = none)
    (range : Except Refusal Unit) (put : Byte → Byte) :
    writeWith s.cfg.selfAddr r range put s = .error (.unmappedRegister r) := by
  simp [writeWith, hr]

theorem tReadBits_unmapped {r : RegAddr} {hi len : Nat} {s : State} (hr : regAt s.cfg r = none)
    (h : rangeInside hi len = true) :
    tReadBits s.cfg.selfAddr r hi len s = .error (.unmappedRegister r) := by
  rw [tReadBits, if_pos h, readWith_unmapped hr]

theorem tWriteBits_unmapped {r : RegAddr} {hi len : Nat} {s : State} (hr : regAt s.cfg r = none)
    (h : rangeInside hi len = true) (v : Byte) :
    tWriteBits s.cfg.selfAddr r hi len v s = .error (.unmappedRegister r) := by
  rw [tWriteBits, if_pos h, writeWith_unmapped hr]

theorem tReadBits_outside {hi len : Nat} (h : ¬ rangeInside hi len = true) (a : DevAddr)
    (r : RegAddr) (s : State) :
    tReadBits a r hi len s = .error (.rangeOutsideRegister hi len) := if_neg h

theorem tWriteBits_outside {hi len : Nat} (h : ¬ rangeInside hi len = true) (a : DevAddr)
    (r : RegAddr) (v : Byte) (s : State) :
    tWriteBits a r hi len v s = .error (.rangeOutsideRegister hi len) := if_neg h

theorem fieldRange_eq_error {p : Params} {hi len : Nat}
    (h : ∀ f, ¬(fieldHi p f = hi ∧ fieldLen f = len)) :
    fieldRange p hi len = .error (.rangeOtherThanField hi len) :=
  if_neg fun hf => (isFieldRange_iff.mp hf).elim h

theorem tReadBits_other_range {r : RegAddr} {reg : Reg} {hi len : Nat} {s : State}
    (hr : regAt s.cfg r = some reg) (h : rangeInside hi len = true)
    (hf : ∀ f, ¬(fieldHi s.cfg f = hi ∧ fieldLen f = len)) :
    tReadBits s.cfg.selfAddr r hi len s = .error (.rangeOtherThanField hi len) := by
  simp [tReadBits, h, readWith, hr, fieldRange_eq_error hf]

theorem tWriteBits_other_range {r : RegAddr} {hi len : Nat} {s : State}
    (hr : regAt s.cfg r = some .ctrl1) (h : rangeInside hi len = true)
    (hf : ∀ f, ¬(fieldHi s.cfg f = hi ∧ fieldLen f = len)) (v : Byte) :
    tWriteBits s.cfg.selfAddr r hi len v s = .error (.rangeOtherThanField hi len) := by
  simp [tWriteBits, h, writeWith, hr, writeRange, fieldRange_eq_error hf]

theorem rangeInside_bit {bit : Nat} : rangeInside bit 1 = true ↔ bit ≤ 7 := by
  simp [rangeInside]

/-! ### What an operation answers -/

theorem execTestconn_eq (s : State) :
    execTestconn s = .next (s.afterPrimitive.answer
      ⟨false, s.primFails, boolResult (decide (s.delivered s.ident = identValue))⟩) := by
  simp [execTestconn, tReadByte, readWith_eq (regAt_aIdent s.cfg), issueRead, respond, xfailOf]

/-- A read of a field of `CTRL1` at the device address the block is bound to. -/
theorem tReadBits_devaddr_eq {s : State} (h : s.cfg.wf = true) (f : Field) :
    tReadBits s.devaddr s.cfg.aCtrl1 (fieldHi s.cfg f) (fieldLen f) s =
      .ok ⟨s.delivered (s.field f), !s.primFails, s.afterPrimitive⟩ := by
  rw [tReadBits, if_pos (rangeInside_field h f), fieldRange_field, readWith_eq (regAt_aCtrl1 h)]
  rfl

/-- `GETBWC` reads the rate, then the mode in the state after the other master's move (R128,
R178). -/
theorem execGetbwc_eq {s u : State} (h : s.cfg.wf = true) (hu : u = s.afterPrimitive.interleave) :
    execGetbwc s = .next (u.afterPrimitive.answer ⟨false, s.primFails || u.primFails,
      binary32 (cutoff s.cfg (s.delivered (s.field .rate)) (u.delivered (u.field .bw)))⟩) := by
  have hcfg : u.cfg = s.cfg := by simp [hu]
  have hdev : u.devaddr = s.devaddr := by simp [hu]
  have hrate := tReadBits_devaddr_eq h .rate
  have hbw := tReadBits_devaddr_eq (hcfg ▸ h) (s := u) .bw
  simp only [hcfg, hdev, fieldHi, fieldLen] at hrate hbw
  simp [execGetbwc, issueRead, hrate, ← hu, hbw, respond, xfailOf]

/-- What an operation answers out of the registers when every primitive succeeds and nobody else
writes: 0 for a setter, and what it makes of its register or field for a getter (R82, R85). -/
def registerResult (s : State) : Instr → Result
  | .testconn => boolResult (decide (s.ident = identValue))
  | .getrate => (decRate s.cfg (s.field .rate)).setWidth 32
  | .getbwm => (s.field .bw).setWidth 32
  | .getbwc => binary32 (cutoff s.cfg (s.field .rate) (s.field .bw))
  | .getpwr => boolResult (decide (s.field .pwr ≠ 0))
  | .getxen => boolResult (decide (s.field .xen ≠ 0))
  | .getyen => boolResult (decide (s.field .yen ≠ 0))
  | .getzen => boolResult (decide (s.field .zen ≠ 0))
  | .init | .setrate _ | .setbwm _ | .setpwr _ | .setxen _ | .setyen _ | .setzen _ => 0

theorem registerResult_congr {s t : State} (hc : t.cfg = s.cfg) (hid : t.ident = s.ident)
    (hb : t.ctrl1 = s.ctrl1) (i : Instr) : registerResult t i = registerResult s i := by
  cases i <;> simp only [registerResult, State.field_congr hc hb, hc, hid]

theorem registerResult_of_setter {s : State} {i : Instr} {f : Field} {v : Byte}
    (hi : setterOf s.cfg i = some (f, v)) (t : State) : registerResult t i = 0 := by
  cases i <;> simp only [setterOf, reduceCtorEq] at hi <;> rfl

/-- One response: `xfail` if the operation's first primitive fails, and `result` under the premises
`IDEAL_TRANSPORT` and `EXCLUSIVE_BUS` (R86, R184). -/
def Answers (result : Result) (s t : State) : Prop :=
  ∃ r : Response, t.responses = s.responses ++ [r] ∧ (s.primFails = true → r.xfail = true) ∧
    (s.IdealTransport → s.ExclusiveBus → r = ⟨false, false, result⟩)

theorem getField_answers {s : State} (h : s.cfg.wf = true) (f : Field) (dec : Byte → Result) :
    ∃ t, getField (fieldHi s.cfg f) (fieldLen f) dec s = .next t ∧
      Answers (dec (s.field f)) s t :=
  ⟨_, getField_eq h f dec, _, rfl, id, fun hideal _ => by
    rw [State.primFails_of_ideal hideal, State.delivered_of_ideal hideal]⟩

theorem getBit_answers {s : State} (h : s.cfg.wf = true) {f : Field} (hf : fieldLen f = 1) :
    ∃ t, getBit (fieldHi s.cfg f) s = .next t ∧
      Answers (boolResult (decide (s.field f ≠ 0))) s t := by
  have hget := getField_answers h f fun v => boolResult (decide (v ≠ 0))
  rwa [hf] at hget

theorem execTestconn_answers (s : State) :
    ∃ t, execTestconn s = .next t ∧ Answers (boolResult (decide (s.ident = identValue))) s t :=
  ⟨_, execTestconn_eq s, _, rfl, id, fun hideal _ => by
    rw [State.primFails_of_ideal hideal, State.delivered_of_ideal hideal]⟩

theorem execGetbwc_answers {s : State} (h : s.cfg.wf = true) :
    ∃ t, execGetbwc s = .next t ∧
      Answers (binary32 (cutoff s.cfg (s.field .rate) (s.field .bw))) s t := by
  refine ⟨_, execGetbwc_eq h rfl, _,
    congrArg (· ++ [_]) (State.interleave_responses s.afterPrimitive),
    fun hp => by simp [hp], fun hideal hx => ?_⟩
  have hideal' : s.afterPrimitive.IdealTransport := hideal
  rw [afterPrimitive_interleave_of_exclusive hx, State.primFails_of_ideal hideal,
    State.primFails_of_ideal hideal', State.delivered_of_ideal hideal,
    State.delivered_of_ideal hideal', State.field_afterPrimitive, Bool.or_false]

theorem SetsField.answers {f : Field} {v : Byte} {s t : State} (h : SetsField f v s t) :
    Answers 0 s t := by
  obtain ⟨-, hres, -⟩ := h
  exact ⟨_, hres, id, fun hideal _ => by rw [State.primFails_of_ideal hideal]⟩

/-- Every operation completes with one response (R86, R150). -/
theorem exec_answers {s : State} (h : s.cfg.wf = true) (i : Instr) :
    ∃ t, exec i s = .next t ∧ Answers (registerResult s i) s t := by
  cases hi : setterOf s.cfg i with
  | some fv =>
    obtain ⟨t, ht, hsets⟩ := exec_setter_next (f := fv.1) (v := fv.2) h hi
    exact ⟨t, ht, registerResult_of_setter hi s ▸ hsets.answers⟩
  | none =>
    cases i <;> simp only [setterOf, reduceCtorEq] at hi
    case testconn => exact execTestconn_answers s
    case getbwc => exact execGetbwc_answers h
    case getrate => exact getField_answers h .rate fun v => (decRate s.cfg v).setWidth 32
    case getbwm => exact getField_answers h .bw fun v => v.setWidth 32
    case getpwr => exact getBit_answers h (f := .pwr) rfl
    case getxen => exact getBit_answers h (f := .xen) rfl
    case getyen => exact getBit_answers h (f := .yen) rfl
    case getzen => exact getBit_answers h (f := .zen) rfl

/-- Bound to another device, with no other master, no operation changes `CTRL1` (R51). -/
theorem exec_ctrl1_of_unbound {i : Instr} {s t : State} (h : s.cfg.wf = true) (hb : ¬ s.Bound)
    (hx : s.ExclusiveBus) (ht : exec i s = .next t) : t.ctrl1 = s.ctrl1 := by
  cases hi : setterOf s.cfg i with
  | none => exact (exec_reads hi ht).ctrl1_of_exclusive hx
  | some fv =>
    obtain ⟨u, hu, -, -, -, -, hunbound, -⟩ := exec_setter_next (f := fv.1) (v := fv.2) h hi
    cases ht.symm.trans hu
    exact hunbound hb

/-- A field written again with the same value leaves `CTRL1` as the first write left it (R63). -/
theorem FieldWritten.ctrl1_idem {f : Field} {v : Byte} {s t u : State} (h : t.cfg.wf = true)
    (hc : u.cfg = t.cfg) (h1 : FieldWritten f v s t) (h2 : FieldWritten f v t u) :
    u.ctrl1 = t.ctrl1 := by
  refine byte_ext_fields h fun g => ?_
  have hg : u.field g = t.field g := by
    by_cases hgf : g = f
    · rw [hgf, h2.1, h1.1]
    · exact h2.2 g hgf
  rwa [State.field, State.field, hc] at hg

/-- With an ideal transport and no other master, an operation given again leaves `CTRL1` (R63). -/
theorem exec_exec_ctrl1 {i : Instr} {s t u : State} (h : s.cfg.wf = true)
    (hs : s.IdealTransport) (ht : t.IdealTransport) (hx : s.ExclusiveBus)
    (hst : exec i s = .next t) (htu : exec i t = .next u) : u.ctrl1 = t.ctrl1 := by
  obtain ⟨⟨hcfg, -, -, -⟩, -⟩ := exec_responds hst
  obtain ⟨⟨hcfg', -, -, -⟩, -⟩ := exec_responds htu
  have hwf : t.cfg.wf = true := by rwa [hcfg]
  cases hi : setterOf s.cfg i with
  | none =>
    have hx' : t.ExclusiveBus := by rwa [State.ExclusiveBus, hcfg]
    exact (exec_reads (hcfg ▸ hi) htu).ctrl1_of_exclusive hx'
  | some fv =>
    obtain ⟨t', ht', -, -, hok, -⟩ := exec_setter_next (f := fv.1) (v := fv.2) h hi
    obtain ⟨u', hu', -, -, hok', -⟩ :=
      exec_setter_next (s := t) (f := fv.1) (v := fv.2) hwf (hcfg ▸ hi)
    cases hst.symm.trans ht'
    cases htu.symm.trans hu'
    exact FieldWritten.ctrl1_idem hwf hcfg' (hok (State.primFails_of_ideal hs))
      (hok' (State.primFails_of_ideal ht))

/-- An operation answers the same in the state it leaves: a getter's registers stay, and a setter
answers 0 (R63). -/
theorem registerResult_exec {i : Instr} {s t : State} (hx : s.ExclusiveBus)
    (ht : exec i s = .next t) : registerResult t i = registerResult s i := by
  cases hi : setterOf s.cfg i with
  | none =>
    obtain ⟨⟨hcfg, -, hid, -⟩, -⟩ := exec_responds ht
    exact registerResult_congr hcfg hid ((exec_reads hi ht).ctrl1_of_exclusive hx) i
  | some fv => rw [registerResult_of_setter hi, registerResult_of_setter hi]

/-! ### The obligations -/

/-- Settles O20: the first primitive fails, and nothing reaches `CTRL1`. -/
theorem wrongBindingReachesNothing : Obligations.WrongBindingReachesNothing := by
  intro i s hwf hb hx
  obtain ⟨t, ht, r, hres, hfail, -⟩ := exec_answers hwf i
  exact ⟨t, r, ht, hres, hfail (State.primFails_of_unbound hb),
    exec_ctrl1_of_unbound hwf hb hx ht, (exec_responds ht).1⟩

/-- Settles O22. -/
theorem readByteDeliversTheRegister : Obligations.ReadByteDeliversTheRegister :=
  fun a _ _ s hr => ⟨_, tReadByte_eq hr a, rfl, fun hok => if_pos hok,
    fun hok => if_neg (Bool.eq_false_iff.mp hok), afterPrimitive_same s⟩

/-- Settles O23: a successful read delivers `readField`, whose bits are the field's. -/
theorem readBitsDeliversTheField : Obligations.ReadBitsDeliversTheField := by
  rintro a r reg f _ _ s hwf hr rfl rfl
  refine ⟨_, tReadBits_field_eq hwf hr a f, rfl, fun hok i => ?_,
    fun hok => if_neg (Bool.eq_false_iff.mp hok), afterPrimitive_same s⟩
  exact (congrArg (BitVec.getLsbD · i) (if_pos hok)).trans (readField_getLsbD _ _ _ i)

/-- Settles O25: the byte written back is `writeField` of the byte read. -/
theorem writeBitsChangesItsRange : Obligations.WriteBitsChangesItsRange := by
  rintro f _ _ v s hwf rfl rfl hok
  have hsame := interleave_setCtrl1_same s
  refine ⟨_, by rw [tWriteBits_field_eq hwf, hok], rfl, (hsame _).1, (hsame _).2, ?_⟩
  intro i hi
  exact writeField_getLsbD_range (rangeInside_field hwf f) s.ctrl1 v hi

/-- Settles O24, as the range of one bit with the value 0 or 1. -/
theorem writeBitChangesOneBit : Obligations.WriteBitChangesOneBit := by
  intro f bit v s hwf hf hbit hok
  obtain ⟨x, hx, hxok, hsame, hres, hbits⟩ := writeBitsChangesItsRange f bit 1
    (if v ≠ 0 then 1 else 0) s hwf hbit hf.symm hok
  refine ⟨x, by rwa [tWriteBit_eq_tWriteBits], hxok, hsame, hres, fun i hi => ?_⟩
  have hrange : (bit + 1 - 1 ≤ i ∧ i ≤ bit) ↔ i = bit := by omega
  simp only [hbits i hi, hrange]
  by_cases hib : i = bit
  · rw [if_pos hib, if_pos hib]
    rw [hib, Nat.add_sub_cancel, Nat.sub_self, getLsbD_zero_flag]
  · rw [if_neg hib, if_neg hib]

/-- Settles O26: a failed write lands or it does not. -/
theorem failedWriteLeavesOldOrNew : Obligations.FailedWriteLeavesOldOrNew := by
  rintro f _ _ v s hwf rfl rfl hfail
  have hsame := interleave_setCtrl1_same s
  refine ⟨_, by rw [tWriteBits_field_eq hwf, hfail], rfl, (hsame _).1, (hsame _).2, ?_⟩
  cases hl : s.outcome.lands with
  | false => exact .inl rfl
  | true =>
    exact .inr fun i hi => writeField_getLsbD_range (rangeInside_field hwf f) s.ctrl1 v hi

/-- Settles O27: each clause by the check that refuses it, `TWriteBit` as the range of one bit. -/
theorem primitiveOutsideTheMapIsRefused : Obligations.PrimitiveOutsideTheMapIsRefused := by
  intro r hi len bit v s
  simp only [tWriteBit_eq_tWriteBits]
  refine ⟨fun hid hct => ?_, fun a hout => ?_, fun a hbit => ?_, fun hwf h1 h2 h3 hf => ?_,
    fun hwf hbit hf => ?_⟩
  · have hr := regAt_eq_none hid hct
    refine ⟨readWith_unmapped hr _ _, fun h1 h2 h3 => ?_, fun hbit => ?_⟩
    · have hin := rangeInside_iff.mpr ⟨h1, h2, h3⟩
      exact ⟨tReadBits_unmapped hr hin, tWriteBits_unmapped hr hin v⟩
    · exact tWriteBits_unmapped hr (rangeInside_bit.mpr hbit) _
  · have hin : ¬ rangeInside hi len = true := by rw [rangeInside_iff]; omega
    exact ⟨tReadBits_outside hin a r s, tWriteBits_outside hin a r v s⟩
  · exact tWriteBits_outside (by rw [rangeInside_bit]; omega) a r _ s
  · have hin := rangeInside_iff.mpr ⟨h1, h2, h3⟩
    exact ⟨tReadBits_other_range (regAt_aCtrl1 hwf) hin hf,
      tReadBits_other_range (regAt_aIdent s.cfg) hin hf,
      tWriteBits_other_range (regAt_aCtrl1 hwf) hin hf v⟩
  · exact tWriteBits_other_range (regAt_aCtrl1 hwf) (rangeInside_bit.mpr hbit)
      (fun f ⟨hhi, hlen⟩ => hf f hlen hhi) _

/-- Settles O50: a setter writes the same value again, and a getter reads the same registers. -/
theorem repeatingAnOperationChangesNothing : Obligations.RepeatingAnOperationChangesNothing := by
  intro i s hwf hideal hx
  obtain ⟨t, ht, r, hres, -, hr⟩ := exec_answers hwf i
  obtain ⟨⟨hcfg, hdev, -, -⟩, -⟩ := exec_responds ht
  have hideal' : t.IdealTransport := by
    simpa only [State.IdealTransport, State.Bound, hcfg, hdev] using hideal
  have hx' : t.ExclusiveBus := by rwa [State.ExclusiveBus, hcfg]
  obtain ⟨u, hu, r', hres', -, hr'⟩ := exec_answers (hcfg ▸ hwf) i
  have hrr : r' = r := by
    rw [hr hideal hx, hr' hideal' hx', registerResult_exec hx ht]
  refine ⟨t, u, r, ht, hu, exec_exec_ctrl1 hwf hideal hideal' hx ht hu, ?_⟩
  rw [hres', hres, hrr, List.append_assoc]
  rfl

end Sys2Proof.Machine

/-! Proofs of the statements about command words, responses and the text of programs
(spec/30_encoding.md). First the decoder, said once for each row of the opcode table, and what it
answers; then what each operation answers and takes; then the reading of names, numbers, words and
lines; then the obligations. -/

namespace Sys2Proof

/-! ### The decoder, row by row -/

@[simp] theorem decode_commandWord_init (arg : BitVec 16) :
    decode (commandWord 0x01#8 arg) = .op .init := by simp [decode]

@[simp] theorem decode_commandWord_testconn (arg : BitVec 16) :
    decode (commandWord 0x02#8 arg) = .op .testconn := by simp [decode]

@[simp] theorem decode_commandWord_setrate (arg : BitVec 16) :
    decode (commandWord 0x03#8 arg) = .op (.setrate arg) := by simp [decode, rateOperand]

@[simp] theorem decode_commandWord_getrate (arg : BitVec 16) :
    decode (commandWord 0x04#8 arg) = .op .getrate := by simp [decode]

@[simp] theorem decode_commandWord_setbwm (arg : BitVec 16) :
    decode (commandWord 0x05#8 arg) = .op (.setbwm (modeOperand arg)) := by simp [decode]

@[simp] theorem decode_commandWord_getbwm (arg : BitVec 16) :
    decode (commandWord 0x06#8 arg) = .op .getbwm := by simp [decode]

@[simp] theorem decode_commandWord_getbwc (arg : BitVec 16) :
    decode (commandWord 0x07#8 arg) = .op .getbwc := by simp [decode]

@[simp] theorem decode_commandWord_setpwr (arg : BitVec 16) :
    decode (commandWord 0x08#8 arg) = .op (.setpwr (flagOperand arg)) := by simp [decode]

@[simp] theorem decode_commandWord_getpwr (arg : BitVec 16) :
    decode (commandWord 0x09#8 arg) = .op .getpwr := by simp [decode]

@[simp] theorem decode_commandWord_setxen (arg : BitVec 16) :
    decode (commandWord 0x0A#8 arg) = .op (.setxen (flagOperand arg)) := by simp [decode]

@[simp] theorem decode_commandWord_getxen (arg : BitVec 16) :
    decode (commandWord 0x0B#8 arg) = .op .getxen := by simp [decode]

@[simp] theorem decode_commandWord_setyen (arg : BitVec 16) :
    decode (commandWord 0x0C#8 arg) = .op (.setyen (flagOperand arg)) := by simp [decode]

@[simp] theorem decode_commandWord_getyen (arg : BitVec 16) :
    decode (commandWord 0x0D#8 arg) = .op .getyen := by simp [decode]

@[simp] theorem decode_commandWord_setzen (arg : BitVec 16) :
    decode (commandWord 0x0E#8 arg) = .op (.setzen (flagOperand arg)) := by simp [decode]

@[simp] theorem decode_commandWord_getzen (arg : BitVec 16) :
    decode (commandWord 0x0F#8 arg) = .op .getzen := by simp [decode]

/-- The sixteenth row: every opcode outside 0x01 to 0x0F is reserved (R83). -/
theorem decode_of_reserved {w : Cmd} (h : (opOf w).toNat = 0 ∨ 0x10 ≤ (opOf w).toNat) :
    decode w = .reserved (opOf w) := by
  unfold decode
  split
  case h_16 => rfl
  all_goals omega

/-- Decoding undoes encoding (R80 to R82). -/
@[simp] theorem decode_encode (i : Instr) : decode (encode i) = .op i := by
  cases i <;> simp [encode]

/-- Opcodes 0x01 to 0x0F are operations, and the operation's own word has the same opcode (R82). -/
theorem exists_op_of_opcode {op : Byte} (h1 : 1 ≤ op.toNat) (h2 : op.toNat < 0x10)
    (arg : BitVec 16) :
    ∃ i arg', decode (commandWord op arg) = .op i ∧ encode i = commandWord op arg' := by
  have hop : op = BitVec.ofNat 8 op.toNat := by simp
  generalize op.toNat = n at *
  subst hop
  interval_cases n
  · exact ⟨_, _, decode_commandWord_init arg, rfl⟩
  · exact ⟨_, _, decode_commandWord_testconn arg, rfl⟩
  · exact ⟨_, _, decode_commandWord_setrate arg, rfl⟩
  · exact ⟨_, _, decode_commandWord_getrate arg, rfl⟩
  · exact ⟨_, _, decode_commandWord_setbwm arg, rfl⟩
  · exact ⟨_, _, decode_commandWord_getbwm arg, rfl⟩
  · exact ⟨_, _, decode_commandWord_getbwc arg, rfl⟩
  · exact ⟨_, _, decode_commandWord_setpwr arg, rfl⟩
  · exact ⟨_, _, decode_commandWord_getpwr arg, rfl⟩
  · exact ⟨_, _, decode_commandWord_setxen arg, rfl⟩
  · exact ⟨_, _, decode_commandWord_getxen arg, rfl⟩
  · exact ⟨_, _, decode_commandWord_setyen arg, rfl⟩
  · exact ⟨_, _, decode_commandWord_getyen arg, rfl⟩
  · exact ⟨_, _, decode_commandWord_setzen arg, rfl⟩
  · exact ⟨_, _, decode_commandWord_getzen arg, rfl⟩

/-! ### What an assembler emits -/

theorem setWidth_eq_zero_append (mode : Byte) : mode.setWidth 16 = 0#8 ++ mode := by
  rw [BitVec.setWidth_eq_append (by decide)]
  rfl

theorem flagArg_eq_append (b : Bool) : flagArg b = 0#15 ++ BitVec.ofBool b := by
  cases b <;> decide

end Sys2Proof

namespace Sys2Proof.Machine

open Sys2Proof.Config

/-! ### The primitives' inputs -/

/-- A primitive takes the oldest given outcome, if there is one (R62). -/
@[simp] theorem Env.afterPrimitive_outcomes (e : Env) :
    e.afterPrimitive.outcomes = e.outcomes.tail := by
  cases h : e.outcomes <;> simp [Env.afterPrimitive, h]

theorem Env.afterOther_outcomes (e : Env) : e.afterOther.outcomes = e.outcomes := by
  cases h : e.others <;> simp [Env.afterOther, h]

/-- The other master takes no outcome of a primitive (R176). -/
@[simp] theorem State.interleave_outcomes (s : State) :
    s.interleave.env.outcomes = s.env.outcomes := by
  unfold State.interleave
  split
  · rfl
  · exact Env.afterOther_outcomes s.env

/-! ### Results are of their type -/

theorem boolResult_eq_zero_or_one (c : Bool) : boolResult c = 0 ∨ boolResult c = 1 := by
  cases c <;> simp [boolResult]

theorem decRate_mem_legalRates (p : Params) (raw : Byte) :
    (decRate p raw).setWidth 32 ∈ legalRates := by
  unfold decRate
  cases rowOf p raw <;> decide

theorem binary32_mem_legalCutoffs (c : Cutoff) : binary32 c ∈ legalCutoffs := by
  cases c <;> decide

theorem toNat_setWidth_byte_lt (v : Byte) : (v.setWidth 32).toNat < 256 := by
  rw [BitVec.toNat_setWidth_of_le (by decide)]
  exact v.isLt

theorem legalResult_of_setter {p : Params} {i : Instr} {f : Field} {v : Byte}
    (hi : setterOf p i = some (f, v)) : legalResult i 0 := by
  cases i <;> simp only [setterOf, reduceCtorEq] at hi <;> rfl

theorem primitiveCount_of_setter {p : Params} {i : Instr} {f : Field} {v : Byte}
    (hi : setterOf p i = some (f, v)) : primitiveCount i = 1 := by
  cases i <;> simp only [setterOf, reduceCtorEq] at hi <;> rfl

/-- What an operation does for its caller and with the environment: one response with a result of
its type, for as many outcomes as it has primitives (R53, R85). -/
def Completes (i : Instr) (s t : State) : Prop :=
  (∃ r, t.responses = s.responses ++ [r] ∧ legalResult i r.result) ∧
  t.env.outcomes = s.env.outcomes.drop (primitiveCount i)

theorem SetsField.completes {i : Instr} {f : Field} {v : Byte} {s t : State}
    (hi : setterOf s.cfg i = some (f, v)) (h : SetsField f v s t) : Completes i s t := by
  obtain ⟨-, hres, -, -, -, henv⟩ := h
  refine ⟨⟨_, hres, legalResult_of_setter hi⟩, ?_⟩
  rw [primitiveCount_of_setter hi, henv]
  split <;> simp

/-- An operation that ends by giving its response in `u`. -/
theorem completes_answer {i : Instr} {s u : State} {r : Response} (hr : legalResult i r.result)
    (hu : u.responses = s.responses)
    (henv : u.env.outcomes = s.env.outcomes.drop (primitiveCount i)) :
    Completes i s (u.answer r) :=
  ⟨⟨r, by rw [State.answer_responses, hu], hr⟩, henv⟩

/-- An operation that is one read. -/
theorem completes_of_read {i : Instr} {s : State} {r : Response} (hi : primitiveCount i = 1)
    (hr : legalResult i r.result) : Completes i s (s.afterPrimitive.answer r) :=
  completes_answer hr rfl (by simp [hi])

theorem getField_completes {i : Instr} {s : State} (h : s.cfg.wf = true) (f : Field)
    {dec : Byte → Result} (hi : primitiveCount i = 1) (hdec : ∀ v, legalResult i (dec v)) :
    ∃ t, getField (fieldHi s.cfg f) (fieldLen f) dec s = .next t ∧ Completes i s t :=
  ⟨_, getField_eq h f dec, completes_of_read hi (hdec _)⟩

theorem getBit_completes {i : Instr} {s : State} (h : s.cfg.wf = true) {f : Field}
    (hf : fieldLen f = 1) (hi : primitiveCount i = 1) (hres : ∀ c, legalResult i (boolResult c)) :
    ∃ t, getBit (fieldHi s.cfg f) s = .next t ∧ Completes i s t :=
  ⟨_, getBit_eq h hf, completes_of_read hi (hres _)⟩

theorem execTestconn_completes (s : State) :
    ∃ t, execTestconn s = .next t ∧ Completes .testconn s t :=
  ⟨_, execTestconn_eq s, completes_of_read rfl (boolResult_eq_zero_or_one _)⟩

theorem execGetbwc_completes {s : State} (h : s.cfg.wf = true) :
    ∃ t, execGetbwc s = .next t ∧ Completes .getbwc s t := by
  refine ⟨_, execGetbwc_eq h rfl, completes_answer (binary32_mem_legalCutoffs _) ?_ ?_⟩
  · exact State.interleave_responses s.afterPrimitive
  · simp only [State.afterPrimitive_env, Env.afterPrimitive_outcomes, State.interleave_outcomes,
      ← List.drop_one, List.drop_drop, primitiveCount]

/-- Every operation completes, whatever the transport delivers. -/
theorem exec_completes {s : State} (h : s.cfg.wf = true) (i : Instr) :
    ∃ t, exec i s = .next t ∧ Completes i s t := by
  cases hi : setterOf s.cfg i with
  | some fv =>
    obtain ⟨t, ht, hsets⟩ := exec_setter_next (f := fv.1) (v := fv.2) h hi
    exact ⟨t, ht, hsets.completes hi⟩
  | none =>
    cases i <;> simp only [setterOf, reduceCtorEq] at hi
    case testconn => exact execTestconn_completes s
    case getbwc => exact execGetbwc_completes h
    case getrate =>
      exact getField_completes (i := .getrate) h .rate rfl (decRate_mem_legalRates s.cfg)
    case getbwm => exact getField_completes h .bw rfl toNat_setWidth_byte_lt
    case getpwr => exact getBit_completes h (f := .pwr) rfl rfl boolResult_eq_zero_or_one
    case getxen => exact getBit_completes h (f := .xen) rfl rfl boolResult_eq_zero_or_one
    case getyen => exact getBit_completes h (f := .yen) rfl rfl boolResult_eq_zero_or_one
    case getzen => exact getBit_completes h (f := .zen) rfl rfl boolResult_eq_zero_or_one

theorem completes_of_exec {i : Instr} {s t : State} (h : s.cfg.wf = true)
    (ht : exec i s = .next t) : Completes i s t := by
  obtain ⟨u, hu, hc⟩ := exec_completes h i
  cases ht.symm.trans hu
  exact hc

/-! ### Numbers -/

/-- The digits of both bases, of both cases, and no other character (R89). -/
theorem digitOf_eq_some_iff (c : Char) (d : Nat) :
    digitOf c = some d ↔ (c, d) ∈ "0123456789abcdef".toList.zip (List.range 16) ++
      "ABCDEF".toList.zip (List.range' 10 6) := by
  constructor
  · intro h
    have hlt : c.toNat < 103 := by
      by_contra hge
      have hnone : digitOf c = none := by
        unfold digitOf
        repeat rw [if_neg (by omega)]
      rw [hnone] at h
      cases h
    have hall : ∀ n < 103, ∀ d ∈ digitOf (Char.ofNat n), (Char.ofNat n, d) ∈
        "0123456789abcdef".toList.zip (List.range 16) ++
          "ABCDEF".toList.zip (List.range' 10 6) := by decide
    have hd := hall c.toNat hlt d
    rw [Char.ofNat_toNat] at hd
    exact hd h
  · exact fun h => (show ∀ x ∈ _, digitOf x.1 = some x.2 by decide) (c, d) h

theorem digitOf_lt {c : Char} {d : Nat} (h : digitOf c = some d) : d < 16 :=
  (show ∀ x ∈ _, x.2 < 16 by decide) (c, d) ((digitOf_eq_some_iff c d).mp h)

/-- Digits are read most significant first. -/
theorem digitsValue_eq_some {base : Nat} {cs : List Char} {ds : List Nat}
    (h : cs.map digitOf = ds.map some) (hlt : ∀ d ∈ ds, d < base) (acc : Nat) :
    digitsValue base acc cs = some (acc * base ^ ds.length + Nat.ofDigits base ds.reverse) := by
  induction ds generalizing cs acc with
  | nil =>
    obtain rfl := List.map_eq_nil_iff.mp h
    simp [digitsValue]
  | cons d ds ih =>
    obtain ⟨c, cs, rfl, hc, hcs⟩ := List.map_eq_cons_iff.mp h
    obtain ⟨hd, hds⟩ := List.forall_mem_cons.mp hlt
    simp only [digitsValue, hc, if_pos hd, ih hcs hds, List.reverse_cons, Nat.ofDigits_append,
      Nat.ofDigits_singleton, List.length_reverse, List.length_cons, Option.some.injEq]
    ring

/-- A character that is no digit of the base spoils the number. -/
theorem digitsValue_eq_none {base : Nat} {cs : List Char}
    (h : ∃ c ∈ cs, ∀ d, digitOf c = some d → base ≤ d) (acc : Nat) :
    digitsValue base acc cs = none := by
  induction cs generalizing acc with
  | nil => simp at h
  | cons c cs ih =>
    rw [digitsValue]
    split
    next d hd =>
      split
      next hlt =>
        refine ih ?_ _
        obtain ⟨c', hmem, hc'⟩ := h
        rcases List.mem_cons.mp hmem with rfl | hmem
        · exact absurd (hc' d hd) (Nat.not_le.mpr hlt)
        · exact ⟨c', hmem, hc'⟩
      next => rfl
    next => rfl

theorem numberOf_hex {cs : List Char} (h : cs ≠ []) :
    numberOf ('0' :: 'x' :: cs) = digitsValue 16 0 cs := by
  cases cs with
  | nil => exact absurd rfl h
  | cons c cs => rfl

theorem numberOf_decimal {cs : List Char} (h : cs ≠ []) (hx : ∀ rest, cs ≠ '0' :: 'x' :: rest) :
    numberOf cs = digitsValue 10 0 cs := by
  unfold numberOf
  split
  case h_1 => exact absurd rfl h
  case h_2 => exact absurd rfl (hx [])
  case h_3 rest _ => exact absurd rfl (hx rest)
  case h_4 => rfl

/-- `x` is no digit, so digits alone are not the hexadecimal form. -/
theorem ne_hex_of_digits {cs : List Char} {ds : List Nat} (h : cs.map digitOf = ds.map some)
    (rest : List Char) : cs ≠ '0' :: 'x' :: rest := by
  rintro rfl
  have hx : digitOf 'x' ∈ ds.map some := h ▸ by simp
  simp [show digitOf 'x' = none by decide] at hx

/-! ### Words -/

theorem not_mem_of_mem_splitOn {α : Type} [DecidableEq α] {a : α} {xs w : List α}
    (h : w ∈ xs.splitOn a) : a ∉ w := by
  induction xs generalizing w with
  | nil => simp_all
  | cons x xs ih =>
    rw [List.splitOn_cons_eq_if_modifyHead] at h
    obtain ⟨l, ls, hl⟩ := List.exists_cons_of_ne_nil (List.splitOn_ne_nil a xs)
    rw [hl] at h ih
    by_cases hx : x = a
    · rw [if_pos (beq_iff_eq.mpr hx)] at h
      rcases List.mem_cons.mp h with rfl | hw
      · exact List.not_mem_nil
      · exact ih hw
    · rw [if_neg (mt beq_iff_eq.mp hx), List.modifyHead_cons] at h
      rcases List.mem_cons.mp h with rfl | hw
      · exact List.not_mem_cons_of_ne_of_not_mem (Ne.symm hx) (ih List.mem_cons_self)
      · exact ih (List.mem_cons_of_mem l hw)

theorem wordsOf_ofList (cs : List Char) : wordsOf (String.ofList cs) =
    ((cs.splitOn ' ').filter fun w => !w.isEmpty).map String.ofList := by
  rw [wordsOf, String.toList_ofList]

theorem wordsOf_run {w : List Char} (h : w ≠ []) (hb : ' ' ∉ w) :
    wordsOf (String.ofList w) = [String.ofList w] := by
  simp [wordsOf_ofList, List.splitOn_eq_singleton hb, h]

theorem wordsOf_blank (cs : List Char) :
    wordsOf (String.ofList (' ' :: cs)) = wordsOf (String.ofList cs) := by
  rw [wordsOf_ofList, wordsOf_ofList, List.splitOn_cons_eq_if_modifyHead, if_pos (by decide)]
  rfl

theorem wordsOf_run_blank {w : List Char} (h : w ≠ []) (hb : ' ' ∉ w) (cs : List Char) :
    wordsOf (String.ofList (w ++ ' ' :: cs)) = String.ofList w :: wordsOf (String.ofList cs) := by
  rw [wordsOf_ofList, wordsOf_ofList, List.splitOn_append_cons_self_of_not_mem hb,
    List.filter_cons_of_pos (by simpa using h), List.map_cons]

/-- A word is neither empty nor holds a blank. -/
theorem of_mem_wordsOf {line w : String} (h : w ∈ wordsOf line) : w ≠ "" ∧ ' ' ∉ w.toList := by
  obtain ⟨cs, hcs, rfl⟩ := List.mem_map.mp h
  obtain ⟨hmem, hne⟩ := List.mem_filter.mp hcs
  rw [String.toList_ofList]
  exact ⟨by simpa using hne, not_mem_of_mem_splitOn hmem⟩

/-! ### Lines -/

theorem assembleLine_of_words {p : Params} {line name : String} {ts : List String} {m : Mnemonic}
    (hw : wordsOf line = name :: ts) (hm : mnemonicOf name = some m) :
    assembleLine p line = (readOperand (operandType m) ts).bind (assemble p m) := by
  simp [assembleLine, hw, hm]

theorem asmBare_eq (i : Instr) (o : AsmOperand) :
    asmBare i o = if o = .absent then some i else none := by
  cases o <;> simp [asmBare]

theorem asmFlag_eq (i : Bool → Instr) (o : AsmOperand) :
    asmFlag i o = if o = .number 0 ∨ o = .truth false then some (i false)
      else if o = .number 1 ∨ o = .truth true then some (i true) else none := by
  unfold asmFlag
  split
  case h_4 b => cases b <;> simp
  all_goals simp_all

/-- The words a one-bit setter takes. -/
theorem flagToken_bind_asmFlag (i : Bool → Instr) (t : String) :
    (flagToken t).bind (asmFlag i) =
      if t = "0" ∨ t = "false" then some (i false)
      else if t = "1" ∨ t = "true" then some (i true) else none := by
  unfold flagToken
  split <;> simp_all [asmFlag]

theorem numberOperand_bind (f : AsmOperand → Option Instr) (t : String) :
    (numberOperand t).bind f = (numberOf t.toList).bind fun n => f (.number n) := Option.bind_map

theorem modeToken_bind (f : AsmOperand → Option Instr) (t : String) :
    (modeToken t).bind f =
      if t = "LOW" then f (.modeName .low)
      else if t = "MED_LOW" then f (.modeName .medLow)
      else if t = "MED_HIGH" then f (.modeName .medHigh)
      else if t = "HIGH" then f (.modeName .high)
      else (numberOf t.toList).bind fun n => f (.number n) := by
  unfold modeToken
  split <;> simp_all [numberOperand_bind]

theorem asmRate_eq_none {p : Params} {o : AsmOperand} (h : ∀ n, o ≠ .number n) :
    asmRate p o = none := by
  cases o with
  | number n => exact absurd rfl (h n)
  | absent | modeName | truth => rfl

/-- A line of a mnemonic with an operand has one word after it, of the operand's type. -/
theorem assembleLine_eq_none_of_word_count {p : Params} {name : String} {m : Mnemonic}
    (hm : mnemonicOf name = some m) (ht : operandType m ≠ .none) (line : String) :
    (wordsOf line = [name] → assembleLine p line = none) ∧
    ∀ t u ts, wordsOf line = name :: t :: u :: ts → assembleLine p line = none := by
  refine ⟨fun hw => ?_, fun t u ts hw => ?_⟩
  all_goals
    rw [assembleLine_of_words hw hm]
    cases h : operandType m with
    | none => exact absurd h ht
    | rate | mode | bool => rfl

/-! ### Programs -/

/-- The commands assemble one by one. -/
theorem assembleLines_eq_some {p : Params} {lines : List String} {is : List Instr}
    (h : lines.map (assembleLine p) = is.map some) : assembleLines p lines = some is := by
  induction lines generalizing is with
  | nil =>
    obtain rfl := List.map_eq_nil_iff.mp h.symm
    rfl
  | cons line lines ih =>
    obtain ⟨i, is, rfl, hi, his⟩ := List.map_eq_cons_iff.mp h.symm
    simp [assembleLines, ← hi, ih his.symm]

theorem assembleLines_eq_none {p : Params} {lines : List String}
    (h : ∃ l ∈ lines, assembleLine p l = none) : assembleLines p lines = none := by
  induction lines with
  | nil => simp at h
  | cons line lines ih =>
    obtain ⟨l, hmem, hl⟩ := h
    rcases List.mem_cons.mp hmem with rfl | hmem
    · simp [assembleLines, hl]
    · simp [assembleLines, ih ⟨l, hmem, hl⟩]

theorem bindingOf_eq_some_iff (p : Params) (head : String) (b : Binding) :
    bindingOf p head = some b ↔
      (wordsOf head = ["BIND_DEFAULT"] ∧ b = .useDefault) ∨
      ∃ t n, wordsOf head = ["BIND", t] ∧ numberOf t.toList = some n ∧ n < 2 ^ p.daddrW ∧
        b = .address n := by
  unfold bindingOf
  split
  next h => simp [h, eq_comm]
  next t h => simp [h, Option.bind_eq_some_iff, eq_comm (a := b)]
  next h1 h2 =>
    have h1 : wordsOf head ≠ ["BIND_DEFAULT"] := h1
    have h2 : ∀ t, wordsOf head ≠ ["BIND", t] := h2
    simp [h1, h2]

/-! ### The obligations -/

/-- Settles O1, row by row. -/
theorem decodeOfEncodeIsTheOperation : Obligations.DecodeOfEncodeIsTheOperation := decode_encode

/-- Settles O3: row by row, and the two operand forms that are not `arg` itself. -/
theorem operandsAreAssembledFromArg : Obligations.OperandsAreAssembledFromArg := by
  refine ⟨fun arg => ?_, fun ignored mode => ?_, rfl, rfl, rfl, rfl, rfl, rfl, rfl, rfl, rfl,
    fun _ => rfl, fun mode => ?_, fun b => ?_, fun b => ?_, fun b => ?_, fun b => ?_⟩
  · simp [flagOperand]
  · simp [modeOperand_append]
  · rw [encode, setWidth_eq_zero_append]
  all_goals rw [encode, flagArg_eq_append]

/-- Settles O4: the opcode is reserved, or it is that of a row. -/
theorem everyWordIsOneRowOrReserved : Obligations.EveryWordIsOneRowOrReserved := by
  intro w
  by_cases h : (opOf w).toNat = 0 ∨ 0x10 ≤ (opOf w).toNat
  · exact .inl ⟨h, decode_of_reserved h⟩
  · have h1 : 1 ≤ (opOf w).toNat := by omega
    have h2 : (opOf w).toNat < 0x10 := by omega
    obtain ⟨i, arg', hdec, henc⟩ := exists_op_of_opcode h1 h2 (argOf w)
    rw [commandWord_opOf_argOf] at hdec
    have hmask : w &&& 0xFF0000 = commandWord (opOf w) 0 := by
      rw [← Laws.EncodedRow.mask_commandWord _ (argOf w), commandWord_opOf_argOf]
    exact .inr ⟨h1, h2, i, hdec, by rw [henc, Laws.EncodedRow.mask_commandWord, hmask]⟩

/-- Settles O5: a line is its mnemonic's operand form, applied to what its words stand for. -/
theorem linesAssembleToTheirOperation : Obligations.LinesAssembleToTheirOperation := by
  intro p
  refine ⟨fun x hx => ?_, fun x hx => ?_, ?_, ?_, fun line => ?_⟩
  · have ⟨hasm, htype⟩ : assemble p x.1 = asmBare x.2 ∧ operandType x.1 = .none := by
      fin_cases hx <;> exact ⟨rfl, rfl⟩
    refine ⟨fun o => by rw [hasm, asmBare_eq], fun line name hm => ⟨fun hw => ?_, ?_⟩⟩
    · rw [assembleLine_of_words hw hm, htype, hasm]
      rfl
    · intro t ts hw
      rw [assembleLine_of_words hw hm, htype]
      rfl
  · have ⟨hasm, htype⟩ : assemble p x.1 = asmFlag x.2 ∧ operandType x.1 = .bool := by
      fin_cases hx <;> exact ⟨rfl, rfl⟩
    refine ⟨fun o => by rw [hasm, asmFlag_eq], fun line name hm => ⟨fun t hw => ?_, ?_⟩⟩
    · rw [assembleLine_of_words hw hm, htype, hasm]
      exact flagToken_bind_asmFlag x.2 t
    · exact assembleLine_eq_none_of_word_count hm (by simp [htype]) line
  · refine ⟨fun n => rfl, fun o => asmRate_eq_none, fun line name hm => ⟨fun t hw => ?_, ?_⟩⟩
    · rw [assembleLine_of_words hw hm]
      exact numberOperand_bind _ t
    · exact assembleLine_eq_none_of_word_count hm (by decide) line
  · refine ⟨fun n => rfl, rfl, rfl, rfl, rfl, rfl, fun b => rfl,
      fun line name hm => ⟨fun t hw => ?_, ?_⟩⟩
    · rw [assembleLine_of_words hw hm]
      exact modeToken_bind _ t
    · exact assembleLine_eq_none_of_word_count hm (by decide) line
  · refine ⟨fun hw => by simp [assembleLine, hw], fun name ts hw hm => ?_⟩
    simp [assembleLine, hw, hm]

/-- Settles O7: a reserved opcode decodes to nothing the step would run. -/
theorem reservedOpcodeIsAnsweredIll : Obligations.ReservedOpcodeIsAnsweredIll :=
  fun _ _ _ hc hop => step_of_reserved hc (decode_of_reserved hop)

/-- Settles O18: each operation's answer is known exactly, and a setter's is 0. -/
theorem resultsHaveTheirType : Obligations.ResultsHaveTheirType :=
  fun _ _ _ hwf h => (completes_of_exec hwf h).1

/-- Settles O19: the given outcomes are taken, however many there are. -/
theorem eachPrimitiveTakesOneOutcome : Obligations.EachPrimitiveTakesOneOutcome :=
  fun _ _ _ hwf h _ => (completes_of_exec hwf h).2

/-- Settles O55: one arm of the reader per name. -/
theorem mnemonicsAreReadByTheirTwoNames : Obligations.MnemonicsAreReadByTheirTwoNames := by
  intro m name
  constructor
  · intro h
    unfold mnemonicOf at h
    split at h <;> cases h <;> decide
  · exact fun h => (show ∀ x ∈ _, mnemonicOf x.2 = some x.1 by decide) (m, name) h

/-- Settles O56: a number is read digit by digit, and `x` is no digit. -/
theorem numbersAreReadInBothBases : Obligations.NumbersAreReadInBothBases := by
  refine ⟨digitOf_eq_some_iff, fun cs ds hcs h hlt => ?_, fun cs ds hcs h => ?_, rfl, rfl,
    fun cs h => ?_, fun cs hx h => ?_⟩
  · rw [numberOf_decimal hcs (ne_hex_of_digits h), digitsValue_eq_some h hlt]
    simp
  · have hlt : ∀ d ∈ ds, d < 16 := by
      intro d hd
      have hmem : some d ∈ cs.map digitOf := h ▸ List.mem_map_of_mem hd
      obtain ⟨c, -, hc⟩ := List.mem_map.mp hmem
      exact digitOf_lt hc
    rw [numberOf_hex hcs, digitsValue_eq_some h hlt]
    simp
  · obtain ⟨c, hmem, hc⟩ := h
    rw [numberOf_hex (List.ne_nil_of_mem hmem)]
    exact digitsValue_eq_none ⟨c, hmem, by simp [hc]⟩ 0
  · obtain ⟨c, hmem, hc⟩ := h
    rw [numberOf_decimal (List.ne_nil_of_mem hmem) hx]
    exact digitsValue_eq_none ⟨c, hmem, hc⟩ 0

/-- Settles O57, by induction on the lines after the binding. -/
theorem programTextIsBindingAndCommands : Obligations.ProgramTextIsBindingAndCommands := by
  intro p head lines
  refine ⟨bindingOf_eq_some_iff p head, fun b is hb hl => ?_, fun hb => ?_, fun hl => ?_, rfl⟩
  · simp [loadProgram, hb, assembleLines_eq_some hl]
  · simp [loadProgram, hb]
  · simp [loadProgram, assembleLines_eq_none hl]

/-- Settles O58, from the library's facts about splitting a list at an element. -/
theorem wordsAreTheRunsBetweenBlanks : Obligations.WordsAreTheRunsBetweenBlanks :=
  ⟨rfl, wordsOf_blank, fun _ => wordsOf_run, fun _ cs h hb => wordsOf_run_blank h hb cs,
    fun _ _ => of_mem_wordsOf⟩

/-- Settles O2, by evaluating the decoder. -/
theorem workedEncodingsDecode : Obligations.WorkedEncodingsDecode := by
  unfold Obligations.WorkedEncodingsDecode
  decide

/-- Settles O12: decoding the queue undoes the encoding of each command. -/
theorem programStartsBoundWithItsCommands : Obligations.ProgramStartsBoundWithItsCommands := by
  intro p is a
  refine ⟨rfl, Nat.mod_eq_of_lt, fun b => ?_⟩
  have hqueue : (is.map encode).map decode = is.map Decoded.op := by
    simp
  cases b <;> exact ⟨rfl, rfl, rfl, hqueue⟩

/-- Settles O21: `result` has 32 bits, `xfail` stands above it and `ill` above both. -/
theorem responseIsPackedInOneWord : Obligations.ResponseIsPackedInOneWord := by
  intro r
  refine ⟨?_, ?_, ?_⟩
  · rw [packResponse]
    exact BitVec.getLsbD_append.trans (by simp)
  · rw [packResponse]
    exact BitVec.getLsbD_append.trans (BitVec.getLsbD_append.trans (by simp))
  · rw [packResponse, BitVec.extractLsb'_append_eq_of_add_le (by decide),
      BitVec.extractLsb'_append_eq_right]

end Sys2Proof.Machine

/-! Proofs of the statements about `INIT` and `TESTCONN` (spec/40_lifecycle_identity.md). First what
the step does with a given word at the head of the queue; then the obligations, from what is known
of every setter and of `TESTCONN`. -/

namespace Sys2Proof.Machine

/-- The other master does not see the caller's queue (R176). -/
theorem State.interleave_setCommands (s : State) (ws : List Cmd) :
    (s.setCommands ws).interleave = s.interleave.setCommands ws := by
  rw [State.interleave, State.interleave, apply_ite (State.setCommands · ws)]
  rfl

/-- The step on a given word runs its operation after the interleaving point (R86, R176). -/
theorem step_setCommands_of_op {w : Cmd} {i : Instr} (hw : decode w = .op i) (s : State)
    (rest : List Cmd) :
    step (s.setCommands (w :: rest)) = exec i (s.interleave.setCommands rest) := by
  rw [step_of_op rfl hw, State.interleave_setCommands]
  rfl

/-- `INIT` and `SETPWR` with a true operand are one operation (R101). -/
theorem exec_init_eq_exec_setpwr_true (s : State) : exec .init s = exec (.setpwr true) s := rfl

/-- A word of `SETPWR` with any `arg` but 0 has a true operand (R81, D16). -/
theorem decode_commandWord_setpwr_of_ne_zero {arg : BitVec 16} (h : arg ≠ 0) :
    decode (commandWord 0x08 arg) = .op (.setpwr true) := by
  have hflag : flagOperand arg = true := decide_eq_true h
  exact hflag ▸ decode_commandWord_setpwr arg

/-- The answer of a comparison (R85). -/
theorem boolResult_decide (c : Prop) [Decidable c] :
    boolResult (decide c) = if c then 1 else 0 := by
  by_cases hc : c <;> simp [boolResult, hc]

/-! ### The obligations -/

/-- Settles O35: `INIT` is the setter of the power flag to 1. -/
theorem initSetsThePowerFlag : Obligations.InitSetsThePowerFlag :=
  ⟨decode_commandWord_init, fun _ hwf => exec_setter_next hwf rfl⟩

/-- Settles O36: the byte at `IDENT` is read in every state, and an ideal transport delivers it. -/
theorem testconnComparesTheIdentity : Obligations.TestconnComparesTheIdentity := by
  refine ⟨decode_commandWord_testconn, fun s => ?_⟩
  have hexec : exec .testconn s = .next (s.afterPrimitive.answer
      ⟨false, s.primFails, if s.delivered s.ident = 0xD3 then 1 else 0⟩) := by
    rw [← boolResult_decide]
    exact execTestconn_eq s
  refine ⟨hexec, fun hideal hident => ?_⟩
  rw [hexec, State.primFails_of_ideal hideal, State.delivered_of_ideal hideal, hident, if_pos rfl]

/-- Settles O44: each word runs its operation in the same state, and the two operations are one. -/
theorem initEqualsSetpwrTrue : Obligations.InitEqualsSetpwrTrue := by
  intro s rest ignored arg harg
  calc step (s.setCommands (commandWord 0x01 ignored :: rest))
      = exec .init (s.interleave.setCommands rest) :=
        step_setCommands_of_op (decode_commandWord_init ignored) s rest
    _ = exec (.setpwr true) (s.interleave.setCommands rest) := exec_init_eq_exec_setpwr_true _
    _ = step (s.setCommands (commandWord 0x08 arg :: rest)) :=
        (step_setCommands_of_op (decode_commandWord_setpwr_of_ne_zero harg) s rest).symm

end Sys2Proof.Machine

/-! Proofs of the statements about the rate (spec/41_rate.md). First the codec: the encoder and the
decoder are each other's inverse between the rows of the cutoff table and the rate codes; then what
`SETRATE` and `GETRATE` after one another answer; then the obligations. -/

namespace Sys2Proof.Machine

open Sys2Proof.Config

/-! ### The rate codec -/

/-- The raw rate code that selects a row (R111, R124). -/
def rowCode (p : Params) : Row → Code
  | .hz100 => p.rc100
  | .hz200 => p.rc200
  | .hz400 => p.rc400
  | .hz800 => p.rc800

theorem rowHz_injective : Function.Injective rowHz := by
  intro a b
  cases a <;> cases b <;> decide

theorem mem_rates_iff {r : RateHz} : r ∈ [(100 : RateHz), 200, 400, 800] ↔ ∃ row, rowHz row = r := by
  constructor
  · intro h
    simp only [List.mem_cons, List.not_mem_nil, or_false] at h
    obtain rfl | rfl | rfl | rfl := h
    · exact ⟨.hz100, rfl⟩
    · exact ⟨.hz200, rfl⟩
    · exact ⟨.hz400, rfl⟩
    · exact ⟨.hz800, rfl⟩
  · rintro ⟨row, rfl⟩
    cases row <;> decide

@[simp] theorem encRate_rowHz (p : Params) (row : Row) : encRate p (rowHz row) = rowCode p row := by
  cases row <;> rfl

/-- Every rate but the three distinguished ones has the 800 Hz code (R111). -/
theorem encRate_of_ne {r : RateHz} (p : Params) (h1 : r ≠ 100) (h2 : r ≠ 200) (h4 : r ≠ 400) :
    encRate p r = rowCode p .hz800 :=
  (if_neg h1).trans ((if_neg h2).trans (if_neg h4))

/-- Every raw value but the three distinguished codes selects the 800 Hz row (R112, R124). -/
theorem rowOf_of_ne {p : Params} {v : Byte} (h1 : v ≠ p.rc100.setWidth 8)
    (h2 : v ≠ p.rc200.setWidth 8) (h4 : v ≠ p.rc400.setWidth 8) : rowOf p v = .hz800 := by
  rw [rowOf, if_neg h1, if_neg h2, if_neg h4]

/-- A code is extended to a byte without loss (R112). -/
theorem code_setWidth_inj {c d : Code} : c.setWidth 8 = d.setWidth 8 ↔ c = d := by
  revert c d; decide

theorem Params.wf_rateCodes {p : Params} (h : p.wf = true) :
    [p.rc100, p.rc200, p.rc400, p.rc800].Nodup := by
  simp only [Params.wf, Bool.and_eq_true] at h
  obtain ⟨⟨⟨⟨-, hcodes⟩, -⟩, -⟩, -⟩ := h
  exact of_decide_eq_true hcodes

/-- Since the codes are distinct, a row's code selects that row (R8, R112). -/
theorem rowOf_rowCode {p : Params} (h : p.wf = true) (row : Row) :
    rowOf p ((rowCode p row).setWidth 8) = row := by
  have hcodes := Params.wf_rateCodes h
  simp only [List.nodup_cons, List.mem_cons, List.not_mem_nil, or_false, not_or] at hcodes
  obtain ⟨⟨h12, h14, h18⟩, ⟨h24, h28⟩, h48, -⟩ := hcodes
  cases row <;> simp only [rowCode, rowOf, code_setWidth_inj, ite_true]
  case hz200 => rw [if_neg (Ne.symm h12)]
  case hz400 => rw [if_neg (Ne.symm h14), if_neg (Ne.symm h24)]
  case hz800 => rw [if_neg (Ne.symm h18), if_neg (Ne.symm h28), if_neg (Ne.symm h48)]

theorem decRate_rowCode {p : Params} (h : p.wf = true) (row : Row) :
    decRate p ((rowCode p row).setWidth 8) = rowHz row := by
  rw [decRate, rowOf_rowCode h]

theorem rowOf_eq_iff_decRate {p : Params} {v : Byte} {row : Row} :
    rowOf p v = row ↔ decRate p v = rowHz row :=
  rowHz_injective.eq_iff.symm

/-- The four codes are all the codes there are (R8). -/
theorem exists_rowCode_eq {p : Params} (h : p.wf = true) (c : Code) : ∃ row, rowCode p row = c := by
  obtain rfl | rfl | rfl | rfl := code_eq_rateCode h c
  · exact ⟨.hz100, rfl⟩
  · exact ⟨.hz200, rfl⟩
  · exact ⟨.hz400, rfl⟩
  · exact ⟨.hz800, rfl⟩

/-- The four rates are operands of `SETRATE` as they are, whatever `RATE_W` is (D18). -/
theorem rateArg_rowHz {p : Params} (h : p.wf = true) (row : Row) :
    rateArg p (rowHz row) = rowHz row :=
  rateArg_of_le_800 h (by cases row <;> decide)

/-! ### `SETRATE` and `GETRATE` -/

/-- `SETRATE` sees of its operand only the code it has (R113). -/
theorem exec_setrate_congr {q r : RateHz} {s : State}
    (h : encRate s.cfg (rateArg s.cfg q) = encRate s.cfg (rateArg s.cfg r)) :
    exec (.setrate q) s = exec (.setrate r) s := by
  simp only [exec, execSetrate, h]

theorem exec_getrate_eq {s : State} (h : s.cfg.wf = true) :
    exec .getrate s = .next (s.afterPrimitive.answer
      ⟨false, s.primFails, (decRate s.cfg (s.delivered (s.field .rate))).setWidth 32⟩) :=
  getField_eq h .rate fun v => (decRate s.cfg v).setWidth 32

/-- With an ideal transport `GETRATE` after `SETRATE` answers the rate of the row whose code was
written (R115). -/
theorem execAll_setrate_getrate {s : State} (h : s.cfg.wf = true) (hideal : s.IdealTransport)
    {r : RateHz} {row : Row} (hr : encRate s.cfg (rateArg s.cfg r) = rowCode s.cfg row) :
    ∃ t, execAll [.setrate r, .getrate] s = .next t ∧
      t.responses = s.responses ++ [⟨false, false, 0⟩, ⟨false, false, (rowHz row).setWidth 32⟩] := by
  obtain ⟨u, hu, ⟨hcfg, hdev, -, -⟩, hres, hok, -⟩ := exec_setter_next (i := .setrate r) h rfl
  have hideal' : u.IdealTransport := by
    simpa only [State.IdealTransport, State.Bound, hcfg, hdev] using hideal
  have hrate : decRate u.cfg (u.field .rate) = rowHz row := by
    obtain ⟨hfield, -⟩ := hok (State.primFails_of_ideal hideal)
    rw [hfield, hr, hcfg, decRate_rowCode h]
  refine ⟨_, by rw [execAll_cons_of_next hu,
    execAll_cons_of_next (exec_getrate_eq (hcfg ▸ h)), execAll], ?_⟩
  rw [State.answer_responses, State.afterPrimitive_responses, hres,
    State.primFails_of_ideal hideal, State.primFails_of_ideal hideal',
    State.delivered_of_ideal hideal', hrate, List.append_assoc, List.singleton_append]

/-! ### The obligations -/

/-- Settles O30: the decoder inverts the row's code, and the rates of the rows are distinct. -/
theorem rateDecoderIsTotal : Obligations.RateDecoderIsTotal := by
  refine fun p h => ⟨decRate_rowCode h .hz100, decRate_rowCode h .hz200, decRate_rowCode h .hz400,
    fun v h1 h2 h4 => ?_, fun v => ⟨mem_rates_iff.mpr ⟨rowOf p v, rfl⟩, rowOf_eq_iff_decRate,
      rowOf_eq_iff_decRate, rowOf_eq_iff_decRate, rowOf_eq_iff_decRate⟩⟩
  have hrow : rowOf p v = .hz800 := rowOf_of_ne h1 h2 h4
  exact ⟨rowOf_eq_iff_decRate.mp hrow, hrow⟩

/-- Settles O37: `SETRATE` is the setter of field `RATE` to the code of its operand. -/
theorem setrateWritesTheRateField : Obligations.SetrateWritesTheRateField := by
  refine ⟨decode_commandWord_setrate, fun p r => ⟨rateArg_toNat p r, fun hw => ?_⟩,
    fun r s h => exec_setter_next h rfl⟩
  exact rateArg_of_lt (by rw [hw]; exact r.isLt)

/-- Settles O38: `GETRATE` is a read of field `RATE`, decoded. -/
theorem getrateDecodesTheRateField : Obligations.GetrateDecodesTheRateField :=
  ⟨decode_commandWord_getrate, fun _ h => ⟨exec_getrate_eq h, decRate_mem_legalRates _ _⟩⟩

/-- Settles O45: each of the four rates is that of a row, and every other operand has the code of
the 800 Hz row. -/
theorem rateRoundTrip : Obligations.RateRoundTrip := by
  intro s h hideal _
  have henc (row : Row) : encRate s.cfg (rateArg s.cfg (rowHz row)) = rowCode s.cfg row := by
    rw [rateArg_rowHz h, encRate_rowHz]
  refine ⟨fun r hr => ?_, fun r h1 h2 h4 => ?_, fun r hr => ?_, fun c => ?_⟩
  · obtain ⟨row, rfl⟩ := mem_rates_iff.mp hr
    exact execAll_setrate_getrate h hideal (henc row)
  · have hr := encRate_of_ne s.cfg h1 h2 h4
    exact ⟨exec_setrate_congr (hr.trans (henc .hz800).symm), execAll_setrate_getrate h hideal hr⟩
  · obtain ⟨row, rfl⟩ := mem_rates_iff.mp hr
    rw [encRate_rowHz, decRate_rowCode h]
  · obtain ⟨row, rfl⟩ := exists_rowCode_eq h c
    rw [decRate_rowCode h, encRate_rowHz]

/-- Settles O29: the four rates are those of the rows, and every other value falls back. -/
theorem rateEncoderIsExactWithFallback : Obligations.RateEncoderIsExactWithFallback :=
  fun p => ⟨encRate_rowHz p .hz100, encRate_rowHz p .hz200, encRate_rowHz p .hz400,
    encRate_rowHz p .hz800, fun _ => encRate_of_ne p⟩

end Sys2Proof.Machine

/-! Proofs of the statements about the bandwidth (spec/42_bandwidth.md). First the columns and the
table; then what `GETBWC` answers after `SETRATE` and `SETBWM`; then the obligations. -/

namespace Sys2Proof.Machine

open Sys2Proof.Config

/-! ### The columns -/

/-- Every raw value but the three lower mode codes selects the column HIGH (R125). -/
theorem colOf_of_ne {p : Params} {v : Byte} (hlow : v ≠ p.bmLow.setWidth 8)
    (hmedLow : v ≠ p.bmMedLow.setWidth 8) (hmedHigh : v ≠ p.bmMedHigh.setWidth 8) :
    colOf p v = .high := by
  rw [colOf, if_neg hlow, if_neg hmedLow, if_neg hmedHigh]

theorem Params.wf_modeCodes {p : Params} (h : p.wf = true) :
    [p.bmLow, p.bmMedLow, p.bmMedHigh, p.bmHigh].Nodup := by
  simp only [Params.wf, Bool.and_eq_true] at h
  obtain ⟨⟨⟨-, hcodes⟩, -⟩, -⟩ := h
  exact of_decide_eq_true hcodes

/-- Since the codes are distinct, a column's code selects that column (R8, R125). -/
theorem colOf_columnCode {p : Params} (h : p.wf = true) (col : Column) :
    colOf p ((columnCode p col).setWidth 8) = col := by
  have hcodes := Params.wf_modeCodes h
  simp only [List.nodup_cons, List.mem_cons, List.not_mem_nil, or_false, not_or] at hcodes
  obtain ⟨⟨h01, h02, h03⟩, ⟨h12, h13⟩, h23, -⟩ := hcodes
  cases col <;> simp only [columnCode, colOf, code_setWidth_inj, ite_true]
  case medLow => rw [if_neg (Ne.symm h01)]
  case medHigh => rw [if_neg (Ne.symm h02), if_neg (Ne.symm h12)]
  case high => rw [if_neg (Ne.symm h03), if_neg (Ne.symm h13), if_neg (Ne.symm h23)]

/-- A field that holds a row's code and one that holds a column's look up the entry at both (R126,
R127). -/
theorem cutoff_rowCode_columnCode {p : Params} (h : p.wf = true) (row : Row) (col : Column) :
    cutoff p ((rowCode p row).setWidth 8) ((columnCode p col).setWidth 8) =
      cutoffTable row col := by
  rw [cutoff, rowOf_rowCode h, colOf_columnCode h]

/-- A field of `len` bits holds a value of `len` bits (R57). -/
theorem readField_toNat_le (b : Byte) (hi len : Nat) :
    (readField b hi len).toNat ≤ 2 ^ len - 1 := by
  rw [readField, BitVec.toNat_and]
  calc _ ≤ (lowMask len).toNat := Nat.and_le_right
    _ = (2 ^ len - 1) % 2 ^ 8 := BitVec.toNat_ofNat _ _
    _ ≤ 2 ^ len - 1 := Nat.mod_le _ _

/-! ### `GETBWC` after `SETRATE` and `SETBWM` -/

/-- The premises of R184 speak of what no operation changes. -/
theorem SameElsewhere.premises {s t : State} (h : SameElsewhere s t) :
    (s.cfg.wf = true → t.cfg.wf = true) ∧ (s.IdealTransport → t.IdealTransport) ∧
      (s.ExclusiveBus → t.ExclusiveBus) := by
  obtain ⟨hcfg, hdev, -, -⟩ := h
  simp only [State.IdealTransport, State.Bound, State.ExclusiveBus, hcfg, hdev]
  exact ⟨id, id, id⟩

/-- With an ideal transport a setter writes its field and answers 0 (R62, R144). -/
theorem exec_setter_of_ideal {i : Instr} {s : State} {f : Field} {v : Byte} (h : s.cfg.wf = true)
    (hideal : s.IdealTransport) (hi : setterOf s.cfg i = some (f, v)) :
    ∃ t, exec i s = .next t ∧ SameElsewhere s t ∧
      t.responses = s.responses ++ [⟨false, false, 0⟩] ∧ FieldWritten f v s t := by
  have hp := State.primFails_of_ideal hideal
  obtain ⟨t, ht, hsame, hres, hok, -⟩ := exec_setter_next h hi
  exact ⟨t, ht, hsame, hp ▸ hres, hok hp⟩

/-- With an ideal transport and no other master `GETBWC` looks up the two fields (R128). -/
theorem exec_getbwc_of_ideal {s : State} (h : s.cfg.wf = true) (hideal : s.IdealTransport)
    (hx : s.ExclusiveBus) :
    ∃ t, exec .getbwc s = .next t ∧ t.responses = s.responses ++
      [⟨false, false, binary32 (cutoff s.cfg (s.field .rate) (s.field .bw))⟩] := by
  obtain ⟨t, ht, r, hres, -, hr⟩ := execGetbwc_answers h
  exact ⟨t, ht, hr hideal hx ▸ hres⟩

/-- After `SETRATE` of a row's code and `SETBWM` of a column's, `GETBWC` answers the entry at both:
the second setter leaves the first one's field (R130, R144). -/
theorem execAll_setrate_setbwm_getbwc {s : State} (h : s.cfg.wf = true)
    (hideal : s.IdealTransport) (hx : s.ExclusiveBus) {r : RateHz} {row : Row}
    (hr : encRate s.cfg (rateArg s.cfg r) = rowCode s.cfg row) (col : Column) :
    ∃ t, execAll [.setrate r, .setbwm ((columnCode s.cfg col).setWidth 8), .getbwc] s = .next t ∧
      t.responses = s.responses ++ [⟨false, false, 0⟩, ⟨false, false, 0⟩,
        ⟨false, false, binary32 (cutoffTable row col)⟩] := by
  obtain ⟨u, hu, hsu, hresu, hrate, -⟩ := exec_setter_of_ideal (i := .setrate r) h hideal rfl
  obtain ⟨hwfu, hidealu, hxu⟩ := hsu.premises
  obtain ⟨v, hv, hsv, hresv, hbw, hother⟩ := exec_setter_of_ideal
    (i := .setbwm ((columnCode s.cfg col).setWidth 8)) (hwfu h) (hidealu hideal) rfl
  obtain ⟨hwfv, hidealv, hxv⟩ := hsv.premises
  obtain ⟨t, ht, hrest⟩ := exec_getbwc_of_ideal (hwfv (hwfu h)) (hidealv (hidealu hideal))
    (hxv (hxu hx))
  have hcfg : v.cfg = s.cfg := hsv.1.trans hsu.1
  have hcut : cutoff v.cfg (v.field .rate) (v.field .bw) = cutoffTable row col := by
    have hcode : v.field .bw = (columnCode s.cfg col).setWidth 8 := hbw.trans (code_and_lowMask _)
    rw [hcode, hother .rate (by decide), hrate, hr, hcfg, cutoff_rowCode_columnCode h]
  refine ⟨t, by rw [execAll_cons_of_next hu, execAll_cons_of_next hv, execAll_cons_of_next ht,
    execAll], ?_⟩
  rw [hrest, hresv, hresu, hcut, List.append_assoc, List.append_assoc]
  rfl

/-! ### The obligations -/

/-- Settles O31: a column's code selects the column, and every other value falls back. -/
theorem columnSelectionIsTotal : Obligations.ColumnSelectionIsTotal :=
  fun _ h => ⟨colOf_columnCode h .low, colOf_columnCode h .medLow, colOf_columnCode h .medHigh,
    colOf_columnCode h .high, fun _ => colOf_of_ne⟩

/-- Settles O33: sign, range of the exponent and value, cutoff by cutoff. -/
theorem cutoffPatternIsExact : Obligations.CutoffPatternIsExact := by
  intro c
  refine ⟨?sign, _, rfl, ?exponent_ge, ?exponent_lt, ?value⟩ <;> cases c <;> decide

/-- Settles O34: the row and the column fall back each by itself, and they meet at 110 Hz. -/
theorem unknownCodesFallBackToTheCorner : Obligations.UnknownCodesFallBackToTheCorner := by
  refine fun p r m => ⟨fun r1 r2 r4 => ?_, fun m1 m2 m3 => ?_, fun r1 r2 r4 m1 m2 m3 => ?_⟩
  · rw [cutoff, rowOf_of_ne r1 r2 r4]
  · rw [cutoff, colOf_of_ne m1 m2 m3]
  · rw [cutoff, rowOf_of_ne r1 r2 r4, colOf_of_ne m1 m2 m3]
    rfl

/-- Settles O39: `SETBWM` is the setter of field `BW` to the low two bits of its operand. -/
theorem setbwmWritesTheModeField : Obligations.SetbwmWritesTheModeField := by
  refine ⟨fun ignored mode => ?_, fun _ _ h => exec_setter_next h rfl⟩
  calc decode (commandWord 0x05 (ignored ++ mode))
      = .op (.setbwm (modeOperand (ignored ++ mode))) := decode_commandWord_setbwm _
    _ = .op (.setbwm mode) := by rw [modeOperand_append]

/-- Settles O40: `GETBWM` is a read of field `BW`, which has two bits. -/
theorem getbwmReturnsTheModeField : Obligations.GetbwmReturnsTheModeField :=
  ⟨decode_commandWord_getbwm, fun s h =>
    ⟨getField_eq h .bw fun v => v.setWidth 32, readField_toNat_le s.ctrl1 s.cfg.bwHi 2⟩⟩

/-- Settles O41: two reads, the second in the state after the other master's move. -/
theorem getbwcLooksUpTheCutoff : Obligations.GetbwcLooksUpTheCutoff :=
  ⟨decode_commandWord_getbwc, fun _ h => ⟨_, rfl, execGetbwc_eq h rfl⟩⟩

/-- Settles O46: each of the four rates has its row's code, and every other operand that of the
800 Hz row. -/
theorem cutoffFollowsRateAndMode : Obligations.CutoffFollowsRateAndMode := by
  refine fun s h hideal hx => ⟨fun row col => ?_, fun r col h1 h2 h4 => ?_⟩
  · have hrow : encRate s.cfg (rateArg s.cfg (rowHz row)) = rowCode s.cfg row := by
      rw [rateArg_rowHz h, encRate_rowHz]
    exact execAll_setrate_setbwm_getbwc h hideal hx hrow col
  · exact execAll_setrate_setbwm_getbwc h hideal hx (encRate_of_ne s.cfg h1 h2 h4) col

/-- Settles O32, by evaluating the table. -/
theorem cutoffTableIsTheSourcesTable : Obligations.CutoffTableIsTheSourcesTable := by
  unfold Obligations.CutoffTableIsTheSourcesTable
  decide

end Sys2Proof.Machine

/-! Proofs of the statements about the power and axis-enable flags and about field isolation
(spec/43_power_axis.md). First what a read of a one-bit field answers; then the obligations, from
what is known of every setter and of every getter. -/

namespace Sys2Proof.Machine

/-! ### The one-bit getters -/

/-- A one-bit getter answers 0 for a delivered 0 and 1 for any other delivered byte (R143, D10). -/
theorem getBit_eq_ite {s : State} (h : s.cfg.wf = true) {f : Field} (hf : fieldLen f = 1) :
    getBit (fieldHi s.cfg f) s = .next (s.afterPrimitive.answer
      ⟨false, s.primFails, if s.delivered (s.field f) = 0 then 0 else 1⟩) := by
  rw [getBit_eq h hf, boolResult_decide, ite_not]

/-- A one-bit field is 0 or 1 (R27). -/
theorem State.field_eq_zero_or_one {f : Field} (hf : fieldLen f = 1) (s : State) :
    s.field f = 0 ∨ s.field f = 1 := by
  have hle := readField_toNat_le s.ctrl1 (fieldHi s.cfg f) (fieldLen f)
  rw [← State.field, hf] at hle
  bv_omega

/-! ### The obligations -/

/-- Settles O42: each of the four is the setter of its flag. -/
theorem flagSettersWriteTheirBit : Obligations.FlagSettersWriteTheirBit := by
  refine ⟨fun arg => ⟨?pwr, ?xen, ?yen, ?zen⟩, fun _ _ h => ⟨exec_setter_next h rfl,
    exec_setter_next h rfl, exec_setter_next h rfl, exec_setter_next h rfl⟩⟩
  case pwr => exact decode_commandWord_setpwr arg
  case xen => exact decode_commandWord_setxen arg
  case yen => exact decode_commandWord_setyen arg
  case zen => exact decode_commandWord_setzen arg

/-- Settles O43: each of the four is a read of its flag, and a flag has one bit. -/
theorem flagGettersReadTheirBit : Obligations.FlagGettersReadTheirBit := by
  refine ⟨fun arg => ⟨decode_commandWord_getpwr arg, decode_commandWord_getxen arg,
    decode_commandWord_getyen arg, decode_commandWord_getzen arg⟩,
    fun s h => ⟨?pwr, ?xen, ?yen, ?zen, fun f hf => ?flag⟩⟩
  case pwr => exact getBit_eq_ite h (f := .pwr) rfl
  case xen => exact getBit_eq_ite h (f := .xen) rfl
  case yen => exact getBit_eq_ite h (f := .yen) rfl
  case zen => exact getBit_eq_ite h (f := .zen) rfl
  case flag =>
    have hlen : ∀ g ∈ [Field.pwr, .xen, .yen, .zen], fieldLen g = 1 := by decide
    exact s.field_eq_zero_or_one (hlen f hf)

/-- Settles O47: a setter writes its field alone, and every other operation only reads. -/
theorem fieldsAreIsolated : Obligations.FieldsAreIsolated := by
  intro i s h hideal hx
  obtain ⟨t, ht, -⟩ := exec_answers h i
  refine ⟨t, ht, fun f v hi => ?setter, fun hi => (exec_reads hi ht).ctrl1_of_exclusive hx⟩
  case setter =>
    obtain ⟨u, hu, -, -, hwritten⟩ := exec_setter_of_ideal h hideal hi
    cases ht.symm.trans hu
    exact hwritten

end Sys2Proof.Machine

/-! Proofs of the statements about exceptions, the idle block and the power flag
(spec/60_exceptions.md). First what two states that agree on some of the fields do: the same inputs
are taken, the fields agree again, and an operation that reads no other field answers the same. Then
the obligations; the statements about earlier responses and about the power flag are two uses of
it. -/

namespace Sys2Proof.Machine

open Sys2Proof.Config

/-! ### Two states that agree on some of the fields -/

/-- Two states alike but for their responses and the fields of `CTRL1` outside `G`. -/
structure AgreeOn (G : Field → Prop) (s u : State) : Prop where
  same : SameElsewhere s u
  env : u.env = s.env
  field : ∀ g, G g → u.field g = s.field g

section

variable {G : Field → Prop} {s u : State}

theorem AgreeOn.cfg (h : AgreeOn G s u) : u.cfg = s.cfg := by
  obtain ⟨hcfg, -, -, -⟩ := h.same
  exact hcfg

theorem AgreeOn.devaddr (h : AgreeOn G s u) : u.devaddr = s.devaddr := by
  obtain ⟨-, hdev, -, -⟩ := h.same
  exact hdev

theorem AgreeOn.ident (h : AgreeOn G s u) : u.ident = s.ident := by
  obtain ⟨-, -, hid, -⟩ := h.same
  exact hid

theorem AgreeOn.outcome (h : AgreeOn G s u) : u.outcome = s.outcome := by
  rw [State.outcome, State.outcome, h.env, h.cfg]

theorem AgreeOn.primFails (h : AgreeOn G s u) : u.primFails = s.primFails := by
  rw [State.primFails, State.primFails, h.devaddr, h.cfg, h.outcome]

theorem AgreeOn.delivered (h : AgreeOn G s u) (v : Byte) : u.delivered v = s.delivered v := by
  rw [State.delivered, State.delivered, h.primFails, h.outcome]

theorem AgreeOn.answer (h : AgreeOn G s u) (r q : Response) :
    AgreeOn G (s.answer r) (u.answer q) := ⟨h.same, h.env, h.field⟩

theorem AgreeOn.afterPrimitive (h : AgreeOn G s u) :
    AgreeOn G s.afterPrimitive u.afterPrimitive :=
  ⟨h.same, congrArg Env.afterPrimitive h.env, h.field⟩

theorem AgreeOn.setCtrl1 (h : AgreeOn G s u) {b c : Byte}
    (hbc : ∀ g, G g → (u.setCtrl1 c).field g = (s.setCtrl1 b).field g) :
    AgreeOn G (s.setCtrl1 b) (u.setCtrl1 c) := ⟨h.same, h.env, hbc⟩

theorem AgreeOn.setEnv (h : AgreeOn G s u) (e : Env) : AgreeOn G (s.setEnv e) (u.setEnv e) :=
  ⟨h.same, rfl, h.field⟩

/-- The other master makes the same move in both (R176). -/
theorem AgreeOn.interleave (h : AgreeOn G s u) : AgreeOn G s.interleave u.interleave := by
  rw [State.interleave, State.interleave, h.cfg, h.env]
  split
  · exact h
  · refine (h.setCtrl1 fun g hg => ?_).setEnv _
    cases s.env.nextOther with
    | none => exact h.field g hg
    | some b => exact State.field_congr (s := s.setCtrl1 b) (t := u.setCtrl1 b) h.cfg rfl g

/-- A field written in both with the same low bits is the same in both, whatever it was (R59). -/
theorem AgreeOn.readField_writeField (h : AgreeOn G s u) (hwf : s.cfg.wf = true) (f : Field)
    {v w : Byte} (hvw : v &&& lowMask (fieldLen f) = w &&& lowMask (fieldLen f)) {g : Field}
    (hg : G g) :
    readField (writeField u.ctrl1 (fieldHi s.cfg f) (fieldLen f) w) (fieldHi s.cfg g) (fieldLen g) =
      readField (writeField s.ctrl1 (fieldHi s.cfg f) (fieldLen f) v) (fieldHi s.cfg g)
        (fieldLen g) := by
  by_cases hgf : g = f
  · rw [hgf, readField_writeField_same hwf, readField_writeField_same hwf, hvw]
  · have hfield := h.field g hg
    rw [State.field, State.field, h.cfg] at hfield
    rw [readField_writeField_other hwf hgf, readField_writeField_other hwf hgf, hfield]

/-! ### Two runs from such states -/

/-- Both runs go on, into states that agree as well; under `alike` both give the same response. -/
def EndAlike (G : Field → Prop) (alike : Prop) (s u : State) (a b : Answer State) : Prop :=
  ∃ t v, a = .next t ∧ b = .next v ∧ AgreeOn G t v ∧
    (alike → ∃ r, t.responses = s.responses ++ [r] ∧ v.responses = u.responses ++ [r])

/-- Two runs that each take the inputs of one read and respond. -/
theorem AgreeOn.read_endAlike (h : AgreeOn G s u) {alike : Prop} {r q : Response}
    (hrq : alike → q = r) :
    EndAlike G alike s u (.next (s.afterPrimitive.answer r)) (.next (u.afterPrimitive.answer q)) :=
  ⟨_, _, rfl, rfl, h.afterPrimitive.answer r q, fun ha => ⟨r, rfl, by rw [hrq ha]; rfl⟩⟩

theorem AgreeOn.getField_endAlike (h : AgreeOn G s u) (hwf : s.cfg.wf = true) (f : Field)
    (dec : Params → Byte → Result) {alike : Prop} (hf : alike → G f) :
    EndAlike G alike s u (getField (fieldHi s.cfg f) (fieldLen f) (dec s.cfg) s)
      (getField (fieldHi u.cfg f) (fieldLen f) (dec u.cfg) u) := by
  rw [getField_eq hwf, getField_eq (h.cfg ▸ hwf)]
  refine h.read_endAlike fun ha => ?_
  rw [h.primFails, h.delivered, h.field f (hf ha), h.cfg]

theorem AgreeOn.getBit_endAlike (h : AgreeOn G s u) (hwf : s.cfg.wf = true) {f : Field}
    (hlen : fieldLen f = 1) {alike : Prop} (hf : alike → G f) :
    EndAlike G alike s u (getBit (fieldHi s.cfg f) s) (getBit (fieldHi u.cfg f) u) := by
  have hget := h.getField_endAlike hwf f (fun _ v => boolResult (decide (v ≠ 0))) hf
  rwa [hlen] at hget

theorem AgreeOn.execTestconn_endAlike (h : AgreeOn G s u) (alike : Prop) :
    EndAlike G alike s u (execTestconn s) (execTestconn u) := by
  rw [execTestconn_eq, execTestconn_eq]
  exact h.read_endAlike fun _ => by rw [h.primFails, h.delivered, h.ident]

/-- The second read of `GETBWC` is in states that agree too (R178). -/
theorem AgreeOn.execGetbwc_endAlike (h : AgreeOn G s u) (hwf : s.cfg.wf = true) {alike : Prop}
    (hrate : alike → G .rate) (hbw : alike → G .bw) :
    EndAlike G alike s u (execGetbwc s) (execGetbwc u) := by
  have hmid := h.afterPrimitive.interleave
  refine ⟨_, _, execGetbwc_eq hwf rfl, execGetbwc_eq (h.cfg ▸ hwf) rfl,
    hmid.afterPrimitive.answer _ _, fun ha => ⟨_, congrArg (· ++ [_]) (by simp), ?_⟩⟩
  rw [h.primFails, hmid.primFails, h.cfg, h.delivered, hmid.delivered, h.field _ (hrate ha),
    hmid.field _ (hbw ha)]
  exact congrArg (· ++ [_]) (by simp)

theorem AgreeOn.setField_endAlike (h : AgreeOn G s u) (hwf : s.cfg.wf = true) (f : Field)
    {v w : Byte} (hvw : v &&& lowMask (fieldLen f) = w &&& lowMask (fieldLen f)) (alike : Prop) :
    EndAlike G alike s u (setField (fieldHi s.cfg f) (fieldLen f) v s)
      (setField (fieldHi u.cfg f) (fieldLen f) w u) := by
  have hmid := h.afterPrimitive.interleave
  rw [setField_eq hwf, setField_eq (h.cfg ▸ hwf), h.devaddr, h.cfg, h.outcome, h.primFails]
  refine ⟨_, _, rfl, rfl, AgreeOn.answer ?_ _ _, fun _ => ⟨⟨false, s.primFails, 0⟩, ?_, ?_⟩⟩
  · split
    · refine hmid.setCtrl1 fun g hg => ?_
      split
      · exact hmid.field g hg
      · simpa [State.field, h.cfg] using h.readField_writeField hwf f hvw hg
    · exact h.afterPrimitive
  all_goals split <;> simp

/-- The fields an operation reads for its answer (R82). -/
def fieldsRead : Instr → List Field
  | .getrate => [.rate]
  | .getbwm => [.bw]
  | .getbwc => [.rate, .bw]
  | .getpwr => [.pwr]
  | .getxen => [.xen]
  | .getyen => [.yen]
  | .getzen => [.zen]
  | .init | .testconn | .setrate _ | .setbwm _ | .setpwr _ | .setxen _ | .setyen _ | .setzen _ => []

theorem pwr_mem_fieldsRead {i : Instr} : .pwr ∈ fieldsRead i ↔ i = .getpwr := by
  cases i <;> simp [fieldsRead]

/-- An operation's answer depends on the free inputs, on what no operation changes, and on the fields
it reads; what it leaves in a field does not depend on any other field (R144). -/
theorem AgreeOn.exec_endAlike (h : AgreeOn G s u) (hwf : s.cfg.wf = true) (i : Instr) :
    EndAlike G (∀ f ∈ fieldsRead i, G f) s u (exec i s) (exec i u) := by
  cases hi : setterOf s.cfg i with
  | some fv =>
    obtain ⟨v, hs, hv⟩ := exec_setter_eq (f := fv.1) (v := fv.2) hi
    obtain ⟨w, hu, hw⟩ := exec_setter_eq (s := u) (f := fv.1) (v := fv.2) (h.cfg ▸ hi)
    rw [hs, hu]
    exact h.setField_endAlike hwf _ (hv.trans hw.symm) _
  | none =>
    cases i <;> simp only [setterOf, reduceCtorEq] at hi
    case testconn => exact h.execTestconn_endAlike _
    case getbwc =>
      exact h.execGetbwc_endAlike hwf (fun hG => hG _ (by simp [fieldsRead]))
        fun hG => hG _ (by simp [fieldsRead])
    case getrate =>
      exact h.getField_endAlike hwf .rate (fun p v => (decRate p v).setWidth 32)
        List.forall_mem_singleton.mp
    case getbwm =>
      exact h.getField_endAlike hwf .bw (fun _ v => v.setWidth 32) List.forall_mem_singleton.mp
    case getpwr => exact h.getBit_endAlike hwf (f := .pwr) rfl List.forall_mem_singleton.mp
    case getxen => exact h.getBit_endAlike hwf (f := .xen) rfl List.forall_mem_singleton.mp
    case getyen => exact h.getBit_endAlike hwf (f := .yen) rfl List.forall_mem_singleton.mp
    case getzen => exact h.getBit_endAlike hwf (f := .zen) rfl List.forall_mem_singleton.mp

end

/-! ### Agreement on every field, and on every field but the power flag -/

theorem agreeOn_setResponses (s : State) (rs : List Response) :
    AgreeOn (fun _ => True) s (s.setResponses rs) :=
  ⟨⟨rfl, rfl, rfl, rfl⟩, rfl, fun _ _ => rfl⟩

/-- States that agree on every field are the same but for their responses (R35). -/
theorem AgreeOn.eq_setResponses {s u : State} (h : AgreeOn (fun _ => True) s u)
    (hwf : s.cfg.wf = true) : u = s.setResponses u.responses := by
  have hctrl1 : u.ctrl1 = s.ctrl1 := byte_ext_fields hwf fun f => by
    have hf := h.field f trivial
    rwa [State.field, State.field, h.cfg] at hf
  obtain ⟨⟨hcfg, hdev, hid, hcmd⟩, henv, -⟩ := h
  cases u
  simp only at hcfg hdev hid hcmd henv hctrl1
  simp only [State.setResponses, hcfg, hdev, hid, hcmd, henv, hctrl1]

/-- What was answered before changes nothing: neither the state an operation leaves nor its response
(R23, R156). -/
theorem exec_setResponses {i : Instr} {s t : State} {r : Response} (hwf : s.cfg.wf = true)
    (ht : exec i s = .next t) (hr : t.responses = s.responses ++ [r]) (rs : List Response) :
    exec i (s.setResponses rs) = .next (t.setResponses (rs ++ [r])) := by
  obtain ⟨t', v, ht', hv, hagree, halike⟩ := (agreeOn_setResponses s rs).exec_endAlike hwf i
  cases ht.symm.trans ht'
  obtain ⟨q, hq, hres⟩ := halike fun _ _ => trivial
  obtain rfl : r = q := by simpa [hr] using hq
  obtain ⟨⟨hcfg, -⟩, -⟩ := exec_responds ht
  have hvt := hagree.eq_setResponses (hcfg ▸ hwf)
  rw [hres] at hvt
  exact hvt ▸ hv

/-! ### The obligations -/

/-- Settles O16: every operation completes with one response, and earlier ones change nothing. -/
theorem everyOperationRunsToItsResponse : Obligations.EveryOperationRunsToItsResponse := by
  refine ⟨nofun, fun i s hwf => ?_⟩
  obtain ⟨t, ht, -⟩ := exec_answers hwf i
  obtain ⟨-, r, hill, hr⟩ := exec_responds ht
  exact ⟨t, r, ht, hill, hr, exec_setResponses hwf ht hr⟩

/-- Settles O54: two such states agree on every field but the power flag, which `GETPWR` alone
reads. -/
theorem powerFlagGatesNothing : Obligations.PowerFlagGatesNothing := by
  intro i s b hwf hfields
  have hagree : AgreeOn (· ≠ .pwr) s (s.setCtrl1 b) := ⟨⟨rfl, rfl, rfl, rfl⟩, rfl, hfields⟩
  obtain ⟨t, u, ht, hu, hend, halike⟩ := hagree.exec_endAlike hwf i
  refine ⟨t, u, ht, hu, fun hi => ?_, hend.field⟩
  obtain ⟨r, htr, hur⟩ := halike fun f hf hpwr => hi (pwr_mem_fieldsRead.mp (hpwr ▸ hf))
  exact hur.trans htr.symm

/-- Settles O15: an idle step, a reserved opcode, or an operation, whose response is not the `ill`
one. -/
theorem everyCommandGetsOneResponse : Obligations.EveryCommandGetsOneResponse := by
  rintro s ⟨hwf, -, -⟩
  cases hc : s.commands with
  | nil => exact ⟨_, step_of_idle hc, fun _ => s.interleave_responses, fun hne => absurd rfl hne⟩
  | cons w rest =>
    have hres : (s.interleave.setCommands rest).responses = s.responses := by simp
    cases hw : decode w with
    | reserved op =>
      refine ⟨_, step_of_reserved hc hw, nofun, fun _ => ⟨illResponse, ?_, by decide⟩⟩
      rw [State.answer_responses, hres]
    | op i =>
      have hwf' : (s.interleave.setCommands rest).cfg.wf = true := by simpa using hwf
      obtain ⟨t, ht, -⟩ := exec_answers hwf' i
      obtain ⟨-, r, hill, hr⟩ := exec_responds ht
      exact ⟨t, (step_of_op hc hw).trans ht, nofun, fun _ => ⟨r, hres ▸ hr, by simp [hill]⟩⟩

/-- Settles O8: the step of a waiting block is the interleaving point alone. -/
theorem waitingBlockDoesNothing : Obligations.WaitingBlockDoesNothing :=
  fun s hc => ⟨step_of_idle hc, fun hx =>
    (step_of_idle hc).trans (congrArg _ (s.interleave_of_exclusive hx))⟩

end Sys2Proof.Machine

/-! Proofs of the statements about the other master, the order of operations and torn sequences
(spec/70_reset_and_hazards.md). First what fixes `CTRL1`, and two setters in a row; then runs from
two states that agree on some of the fields; then the state in which the other master may not move;
then the obligations. -/

namespace Sys2Proof.Machine

/-! ### The six fields fix `CTRL1` -/

/-- Equal fields that stand at the same places make equal bytes (R8, R35). -/
theorem State.ctrl1_eq_of_field_eq {t u : State} (h : t.cfg.wf = true)
    (hplace : ∀ f, fieldHi u.cfg f = fieldHi t.cfg f) (hfield : ∀ f, t.field f = u.field f) :
    t.ctrl1 = u.ctrl1 := by
  refine byte_ext_fields h fun f => ?_
  have hf := hfield f
  rwa [State.field, State.field, hplace f] at hf

theorem AgreeOn.ctrl1_eq {G : Field → Prop} {s u : State} (h : AgreeOn G s u)
    (hwf : s.cfg.wf = true) (hall : ∀ f, G f) : s.ctrl1 = u.ctrl1 :=
  State.ctrl1_eq_of_field_eq hwf (fun _ => by rw [h.cfg]) fun f => (h.field f (hall f)).symm

/-! ### Two setters in a row -/

/-- With an ideal transport, two setters of different fields leave both values and no other change
(R144). -/
theorem execAll_two_setters_of_ideal {i j : Instr} {f g : Field} {v w : Byte} {s : State}
    (h : s.cfg.wf = true) (hideal : s.IdealTransport) (hi : setterOf s.cfg i = some (f, v))
    (hj : setterOf s.cfg j = some (g, w)) (hfg : f ≠ g) :
    ∃ t, execAll [i, j] s = .next t ∧ t.cfg = s.cfg ∧ t.field f = v ∧ t.field g = w ∧
      ∀ k, k ≠ f → k ≠ g → t.field k = s.field k := by
  obtain ⟨a, ha, hsa, -, hf, hothera⟩ := exec_setter_of_ideal h hideal hi
  obtain ⟨hwfa, hideala, -⟩ := hsa.premises
  have hcfg : a.cfg = s.cfg := hsa.1
  obtain ⟨t, ht, hat, -, hg, hothert⟩ :=
    exec_setter_of_ideal (hwfa h) (hideala hideal) (hcfg ▸ hj)
  refine ⟨t, by rw [execAll_cons_of_next ha, execAll_cons_of_next ht, execAll],
    hat.1.trans hcfg, (hothert f hfg).trans hf, hg, fun k hkf hkg => ?_⟩
  exact (hothert k hkg).trans (hothera k hkf)

/-! ### Runs from two states that agree on some of the fields -/

/-- With an ideal transport, the field an operation writes is one more that the states agree on
(R144, R174). -/
theorem AgreeOn.exec_of_ideal {G : Field → Prop} {s u : State} (h : AgreeOn G s u)
    (hwf : s.cfg.wf = true) (hideal : s.IdealTransport) (i : Instr) :
    ∃ t v, exec i s = .next t ∧ exec i u = .next v ∧
      AgreeOn (fun g => G g ∨ ∃ w, setterOf s.cfg i = some (g, w)) t v := by
  obtain ⟨hwfu, hidealu, -⟩ := h.same.premises
  obtain ⟨t, v, ht, hv, hend, -⟩ := h.exec_endAlike hwf i
  refine ⟨t, v, ht, hv, hend.same, hend.env, ?_⟩
  rintro g (hg | ⟨w, hi⟩)
  · exact hend.field g hg
  · obtain ⟨t', ht', -, -, hset, -⟩ := exec_setter_of_ideal hwf hideal hi
    obtain ⟨v', hv', -, -, hset', -⟩ :=
      exec_setter_of_ideal (hwfu hwf) (hidealu hideal) (h.cfg ▸ hi)
    cases ht.symm.trans ht'
    cases hv.symm.trans hv'
    exact hset'.trans hset.symm

/-- A run of operations makes the states agree on every field that has a setter in it (R174). -/
theorem AgreeOn.execAll_of_ideal (is : List Instr) : ∀ {G : Field → Prop} {s u : State},
    AgreeOn G s u → s.cfg.wf = true → s.IdealTransport →
      ∃ t v, execAll is s = .next t ∧ execAll is u = .next v ∧ t.cfg = s.cfg ∧
        AgreeOn (fun g => G g ∨ ∃ i ∈ is, ∃ w, setterOf s.cfg i = some (g, w)) t v := by
  induction is with
  | nil => exact fun h _ _ => ⟨_, _, rfl, rfl, rfl, by simpa using h⟩
  | cons i is ih =>
    intro G s u h hwf hideal
    obtain ⟨a, b, ha, hb, hab⟩ := h.exec_of_ideal hwf hideal i
    obtain ⟨hsa, -⟩ := exec_responds ha
    obtain ⟨hwfa, hideala, -⟩ := hsa.premises
    have hcfg : a.cfg = s.cfg := hsa.1
    obtain ⟨t, v, ht, hv, htcfg, hend⟩ := ih hab (hwfa hwf) (hideala hideal)
    refine ⟨t, v, by rw [execAll_cons_of_next ha, ht], by rw [execAll_cons_of_next hb, hv],
      htcfg.trans hcfg, ?_⟩
    simpa only [List.exists_mem_cons_iff, or_assoc, hcfg] using hend

/-! ### The state in which the other master may not move -/

/-- `s` with the premise `EXCLUSIVE_BUS` (R176). -/
def State.exclusive (s : State) : State := { s with cfg := { s.cfg with exclusiveBus := true } }

theorem State.exclusive_wf (s : State) : s.exclusive.cfg.wf = s.cfg.wf := rfl

theorem State.exclusive_primFails (s : State) : s.exclusive.primFails = s.primFails := rfl

theorem State.exclusive_fieldHi (s : State) (f : Field) :
    fieldHi s.exclusive.cfg f = fieldHi s.cfg f := rfl

theorem State.exclusive_field (s : State) (f : Field) : s.exclusive.field f = s.field f := rfl

theorem State.exclusive_setterOf (s : State) (i : Instr) :
    setterOf s.exclusive.cfg i = setterOf s.cfg i := rfl

/-! ### The other master's move -/

theorem State.exclusiveBus_eq_false {s : State} (hx : ¬ s.ExclusiveBus) :
    s.cfg.exclusiveBus = false := Bool.eq_false_of_not_eq_true hx

/-- Where another master is allowed, the byte it gives is what `CTRL1` holds next (R176). -/
theorem State.interleave_ctrl1_of_nextOther {s : State} {b : Byte} (hx : ¬ s.ExclusiveBus)
    (hb : s.env.nextOther = some b) : s.interleave.ctrl1 = b := by
  rw [s.interleave_ctrl1_of_shared (State.exclusiveBus_eq_false hx), hb, Option.getD_some]

/-! ### The obligations -/

/-- Settles O9: an environment that gives the move `b` makes `CTRL1` that byte. -/
theorem otherMasterReplacesCtrl1Only : Obligations.OtherMasterReplacesCtrl1Only := by
  refine ⟨fun s => ⟨by simp [SameElsewhere], s.interleave_responses⟩,
    fun s hx => s.interleave_of_exclusive hx, fun s b hx => ⟨⟨[], [some b], 0⟩, ?given⟩,
    fun s hx => ?kept_or_given⟩
  case given => exact State.interleave_ctrl1_of_nextOther hx rfl
  case kept_or_given =>
    cases ho : s.env.nextOther with
    | none =>
      left
      rw [s.interleave_ctrl1_of_shared (State.exclusiveBus_eq_false hx), ho, Option.getD_none]
    | some b =>
      right
      rw [State.interleave_ctrl1_of_nextOther hx ho]

/-- Settles O48: each operation makes the two runs agree on the field it writes, and in the end they
agree on all six. -/
theorem writingEveryFieldDeterminesCtrl1 : Obligations.WritingEveryFieldDeterminesCtrl1 := by
  intro is s b hwf hideal _ hall
  have hnone : AgreeOn (fun _ => False) s (s.setCtrl1 b) := ⟨⟨rfl, rfl, rfl, rfl⟩, rfl, nofun⟩
  obtain ⟨t, u, ht, hu, hcfg, hend⟩ := hnone.execAll_of_ideal is hwf hideal
  exact ⟨t, u, ht, hu, hend.ctrl1_eq (hcfg ▸ hwf) fun f => .inr (hall f)⟩

/-- Settles O49: either order leaves both values and the four other fields. -/
theorem settersOfDifferentFieldsCommute : Obligations.SettersOfDifferentFieldsCommute := by
  intro i j f g v w s hwf hideal _ hi hj hfg
  obtain ⟨t, ht, htcfg, htf, htg, hto⟩ := execAll_two_setters_of_ideal hwf hideal hi hj hfg
  obtain ⟨u, hu, hucfg, hug, huf, huo⟩ := execAll_two_setters_of_ideal hwf hideal hj hi hfg.symm
  refine ⟨t, u, ht, hu, State.ctrl1_eq_of_field_eq (htcfg ▸ hwf)
    (fun _ => by rw [hucfg, htcfg]) fun k => ?_⟩
  by_cases hkf : k = f
  · rw [hkf, htf, huf]
  · by_cases hkg : k = g
    · rw [hkg, htg, hug]
    · rw [hto k hkf hkg, huo k hkg hkf]

/-- Settles O52: a write that succeeds leaves its value and the five fields it read, whether or not
the other master moved since. -/
theorem otherMastersUpdateIsLost : Obligations.OtherMastersUpdateIsLost := by
  intro i f v s hwf hi hp
  obtain ⟨t, ht, ⟨htcfg, -⟩, -, htok, -⟩ := exec_setter_next hwf hi
  obtain ⟨u, hu, ⟨hucfg, -⟩, -, huok, -⟩ :=
    exec_setter_next (s.exclusive_wf.trans hwf) ((s.exclusive_setterOf i).trans hi)
  obtain ⟨htf, hto⟩ := htok hp
  obtain ⟨huf, huo⟩ := huok (s.exclusive_primFails.trans hp)
  refine ⟨t, u, ht, hu, State.ctrl1_eq_of_field_eq (htcfg ▸ hwf)
    (fun g => by rw [hucfg, htcfg, s.exclusive_fieldHi]) fun g => ?_⟩
  by_cases hgf : g = f
  · rw [hgf, htf, huf]
  · rw [hto g hgf, huo g hgf, s.exclusive_field]

/-- Settles O53: the first read is of `CTRL1` before the move, the second of the byte `b`. -/
theorem cutoffOfATornPair : Obligations.CutoffOfATornPair := by
  intro s b hwf hideal hx hb
  obtain ⟨hsame, hres, -⟩ := afterPrimitive_interleave_same s
  obtain ⟨-, hideal', -⟩ := hsame.premises
  have hmoved : s.afterPrimitive.interleave.ctrl1 = b := State.interleave_ctrl1_of_nextOther hx hb
  have hbw : s.afterPrimitive.interleave.field .bw = (s.setCtrl1 b).field .bw :=
    State.field_congr (s := s.setCtrl1 b) hsame.1 hmoved _
  refine ⟨_, execGetbwc_eq hwf rfl, hmoved, ?_⟩
  rw [State.answer_responses, State.afterPrimitive_responses, hres,
    State.primFails_of_ideal hideal, State.primFails_of_ideal (hideal' hideal),
    State.delivered_of_ideal hideal, State.delivered_of_ideal (hideal' hideal), hbw,
    Bool.or_false, cutoff]

end Sys2Proof.Machine
